-- ==== Sys2Proof/Word.lean ====
section
/-! DEFINITION. The bit patterns and byte sequences of the block (00_scope.md R6, R7) and the CAN frame record
(30_encoding.md R64). -/

namespace Sys2Proof

/-- An unsigned 8-bit value (R6). -/
abbrev Byte := BitVec 8

/-- A 32-bit pattern; an `F32` is identified with its pattern and never interpreted (R7, R96). -/
abbrev Bits32 := BitVec 32

/-- An arbitration ID of `ID_W` = 11 bits (R5, R7). -/
abbrev Id := BitVec 11

/-- `Bytes(n)`: an ordered sequence of exactly `n` bytes (R7). -/
structure Bytes (n : Nat) where
  list : List Byte
  len : list.length = n
deriving DecidableEq, Repr

/-- `b[i]` (R7). -/
def Bytes.get {n : Nat} (b : Bytes n) (i : Fin n) : Byte :=
  b.list[i.val]'(by rw [b.len]; exact i.isLt)

/-- A frame payload: 0 to `PAY_MAX` = 8 bytes, offset 0 first; a longer one is not a value of the type (R42, R64, R71). -/
structure Payload where
  bytes : List Byte
  len_le : bytes.length ≤ 8
deriving DecidableEq, Repr

/-- `FRAME`: an 11-bit ID and a payload, and no other field (R64). -/
structure Frame where
  id : Id
  data : Payload
deriving DecidableEq, Repr

/-- The `len` field of a frame (R64): the number of payload bytes. -/
def Frame.len (f : Frame) : Nat := f.data.bytes.length

end Sys2Proof
end

