-- ==== Sys2Proof/Config.lean ====
section
/-! DEFINITION. What the hardware fixes (00_scope.md R5, 10_state.md R27) and the model's free values. -/

namespace Sys2Proof

/-- The parameters of R5 that some rule reads, and the ones R5 lists as read by no rule. The offsets `CMD_K_OFF` = 0,
`CMD_V_OFF` = 4 and `ODOM_OFF` = 4 are the definitions below. -/
structure Params where
  /-- `CMD_ID`, the ID of the outbound command frame -/
  cmdId : Id
  /-- `ODOM_ID`, the ID of the inbound odometry frame -/
  odomId : Id
  /-- `K_BITS`, the 32-bit pattern of the constant 0.85 -/
  kBits : Bits32
  /-- `MSG_DEFAULT`, what every message field holds after reset -/
  msgDefault : Bits32
  /-- `CAN_BITRATE` in bit/s; read by no rule (R5) -/
  canBitrate : Nat
  /-- `SERIAL_BAUD`; read by no rule (R5, U7) -/
  serialBaud : Nat
  /-- `TOPIC_IN`; read by no rule (R5) -/
  topicIn : String
  /-- `TOPIC_OUT`; read by no rule (R5) -/
  topicOut : String
deriving DecidableEq, Repr

/-- `CMD_K_OFF` (R5). -/
abbrev Config.cmdKOff : Nat := 0

/-- `CMD_V_OFF` (R5). -/
abbrev Config.cmdVOff : Nat := 4

/-- `ODOM_OFF` (R5). -/
abbrev Config.odomOff : Nat := 4

/-- A free value: `SERIAL_BAUD` has no value in the spec (U7, N12); log entry 28. -/
opaque Config.serialBaud : Nat

/-- A free value: the k-th `draw Byte` of a run (R8, R123). Nothing can be proved of it; log entry 5. -/
opaque Config.draw : Nat → Byte

/-- The parameters at the defaults of R5; `K_BITS` is log entry 7 (UNVERIFIED), `MSG_DEFAULT` log entry 6 (DESIGN CHOICE). -/
def Config.params : Params where
  cmdId := 0x501
  odomId := 0x403
  kBits := 0x3F59999A
  msgDefault := 0x00000000
  canBitrate := 1000000
  serialBaud := Config.serialBaud
  topicIn := "tester"
  topicOut := "raw_odom"

end Sys2Proof
end

