-- ==== Sys2Proof/Syntax.lean ====
section
/-! DEFINITION. The operations of the block, one constructor per row of spec/opcode_table.json (30_encoding.md R60, R69). -/

namespace Sys2Proof

/-- One stimulus, with the operands it carries. -/
inductive Instr where
  /-- `F32ENC p` on port `ENC` (R90) -/
  | f32enc (p : Bits32)
  /-- `F32DEC b` on port `DEC` (R91) -/
  | f32dec (b : Bytes 4)
  /-- `TXCMD v`: one command value on `CMD_IN` (R110) -/
  | txcmd (v : Bits32)
  /-- `RXPOLL rx`: one poll of `CAN_RX` and its answer (R120) -/
  | rxpoll (rx : Option Frame)
  /-- `RX.NONE`: a poll answered by no frame (R126) -/
  | rxNone
  /-- `RX.ODOM`: a poll answered by a frame whose ID is `ODOM_ID`; the operand is its payload (R122, R123) -/
  | rxOdom (data : Payload)
  /-- `RX.OTHER`: a poll answered by a frame of any other ID (R124) -/
  | rxOther (f : Frame)
  /-- `INIT can_ok` on `INIT_RESULT` (R140) -/
  | init (canOk : Bool)
  /-- `LOOP cmds rx`: one loop iteration (R144) -/
  | loop (cmds : List Bits32) (rx : Option Frame)
  /-- `RESET` (R180) -/
  | reset
  /-- `STIM` = 111, the reserved selector: no operation (R69, R71) -/
  | reserved
deriving DecidableEq, Repr

/-- The row of spec/opcode_table.json a constructor stands for. -/
def Instr.mnemonic : Instr → String
  | .f32enc _ => "F32ENC"
  | .f32dec _ => "F32DEC"
  | .txcmd _ => "TXCMD"
  | .rxpoll _ => "RXPOLL"
  | .rxNone => "RX.NONE"
  | .rxOdom _ => "RX.ODOM"
  | .rxOther _ => "RX.OTHER"
  | .init _ => "INIT"
  | .loop _ _ => "LOOP"
  | .reset => "RESET"
  | .reserved => "(reserved)"

end Sys2Proof
end

