-- ==== Sys2Proof/Machine/Operands.lean ====
section
/-! DEFINITION. Operand assembly (30_encoding.md R68): the buffer primitives of 00_scope.md R8, the float byte coder's two
functions (40_float_codec.md R90, R91), the outbound payload (R65) and the receive buffer (R122, R123). -/

namespace Sys2Proof.Machine

/-- `MemRead(buf, off, n)`: the `n` bytes from offset `off`, defined only inside the buffer (R8). -/
def memRead {N : Nat} (buf : Bytes N) (off n : Nat) (h : off + n ≤ N := by decide) : Bytes n :=
  ⟨(buf.list.drop off).take n, by simp only [List.length_take, List.length_drop, buf.len]; omega⟩

/-- `MemWrite(buf, off, n, v)`: `n` bytes replaced from offset `off`, defined only inside the buffer (R8). -/
def memWrite {N n : Nat} (buf : Bytes N) (off : Nat) (v : Bytes n) (h : off + n ≤ N := by decide) : Bytes N :=
  ⟨buf.list.take off ++ v.list ++ buf.list.drop (off + n), by
    simp only [List.length_append, List.length_take, List.length_drop, buf.len, v.len]; omega⟩

/-- `F32ENC`: four bytes, least significant first (R90, R44). -/
def f32enc (p : Bits32) : Bytes 4 :=
  ⟨[p.extractLsb' 0 8, p.extractLsb' 8 8, p.extractLsb' 16 8, p.extractLsb' 24 8], rfl⟩

/-- `F32DEC`: `b[3] : b[2] : b[1] : b[0]` (R91, R44). -/
def f32dec (b : Bytes 4) : Bits32 :=
  b.get 3 ++ b.get 2 ++ b.get 1 ++ b.get 0

/-- The buffer `pay` before its two halves are written (R110); what it holds is never seen (log entry 27). -/
def blankPay : Bytes 8 := ⟨List.replicate 8 0, rfl⟩

/-- `TXPAY`: the constant at offset 0, the command value at offset 4 (R65, R110). -/
def txPay (p : Params) (v : Bits32) : Bytes 8 :=
  memWrite (memWrite blankPay Config.cmdKOff (f32enc p.kBits)) Config.cmdVOff (f32enc v)

/-- A full buffer as a payload. -/
def payloadOf (b : Bytes 8) : Payload := ⟨b.list, by rw [b.len]⟩

/-- The one frame the block transmits: `{id = CMD_ID, len = 8, data = TXPAY}` (R65, R110). -/
def txFrame (p : Params) (v : Bits32) : Frame := ⟨p.cmdId, payloadOf (txPay p v)⟩

/-- How many of the eight bytes of `RXBUF` the frame does not supply (R123). -/
def missingBytes (data : Payload) : Nat := 8 - data.bytes.length

/-- `RXBUF`: the frame's bytes, and a fresh draw for each byte it does not supply (R122, R123); `n` draws have been made. -/
def rxBuffer (data : Payload) (n : Nat) : Bytes 8 :=
  ⟨data.bytes ++ (List.range (missingBytes data)).map (fun k => Config.draw (n + k)), by
    have := data.len_le
    simp only [List.length_append, List.length_map, List.length_range, missingBytes]; omega⟩

/-- The float of an odometry frame: `F32DEC(MemRead(RXBUF, 4, 4))` (R68, R122). -/
def odomField (data : Payload) (n : Nat) : Bits32 :=
  f32dec (memRead (rxBuffer data n) Config.odomOff 4)

end Sys2Proof.Machine
end

