-- ==== Sys2Proof/WellFormed.lean ====
section
/-! DEFINITION. When an instruction is well formed. Almost every check is in the types (an ID has 11 bits, a payload at most
8 bytes, R64); what is left is the dispatch of 30_encoding.md R69: row RX.OTHER stands for the IDs row RX.ODOM has not taken. -/

namespace Sys2Proof

/-- `RX.OTHER` carries a frame whose ID is not `ODOM_ID` (R69 row 3, R124); every other instruction is well formed. -/
def Instr.wf : Instr → Bool
  | .rxOther f => f.id != Config.params.odomId
  | .f32enc _ => true
  | .f32dec _ => true
  | .txcmd _ => true
  | .rxpoll _ => true
  | .rxNone => true
  | .rxOdom _ => true
  | .init _ => true
  | .loop _ _ => true
  | .reset => true
  | .reserved => true

end Sys2Proof
end

