-- ==== Sys2Proof/Decode.lean ====
section
/-! DEFINITION. Stimuli as bytes, the decoder, the encoder and the opcode table.

The spec numbers no operation: it gives two tabulation selectors, `STIM` and `RXSEL` (30_encoding.md R69), and no places for
operands. The layout of the operand bytes is the model's own (DESIGN CHOICE, log entries 9 and 10):

* format `stim`: one byte holding `STIM` in bits 2:0 and zeros above, then the operands. F32ENC and TXCMD: four bytes, least
  significant first. F32DEC: its four bytes. RXPOLL: a poll answer. INIT: one byte, 0 or 1. LOOP: for each command a byte 1
  and its four bytes, then a byte 0, then a poll answer. RESET and STIM = 111: none.
* format `rxsel`: a poll answer.
* a poll answer: the 16-bit word with `RXSEL` in bits 11:0 (low byte first), bit 12 the extended-ID marker, bit 13 the
  remote-request marker, bits 15:14 zero; then, if `avail` is 1, one byte `len` and `len` data bytes.

Zero bytes may follow the operands. -/

namespace Sys2Proof

/-- Which selector of R69 a stimulus begins with. -/
inductive Format where
  | stim
  | rxsel
deriving DecidableEq, Repr

/-- One stimulus as the environment offers it: raw bytes. -/
structure Stimulus where
  format : Format
  bytes : List Byte
deriving DecidableEq, Repr

/-- Why a stimulus has no reading. Every one is the model's refusal, so safe (toward unprovable). -/
inductive DecodeError where
  /-- the bytes end before the operands do -/
  | truncated
  /-- a bit that holds nothing (above `STIM`, or 15:14 of a poll word) is set -/
  | paddingBits
  /-- the operand of INIT is neither 0 nor 1 -/
  | notABit
  /-- a command of LOOP is announced by neither 0 nor 1 -/
  | commandMarker
  /-- an extended-ID frame is not a `FRAME` (R64, R71, D10) -/
  | extendedFrame
  /-- a remote frame is not a `FRAME` (R64, R71, D10) -/
  | remoteFrame
  /-- a frame with `len > 8` is not a `FRAME` (R64, R71) -/
  | payloadTooLong
  /-- a non-zero byte stands after the operands -/
  | trailingBytes
deriving DecidableEq, Repr

/-- A parser's answer: the value and the bytes after it. -/
abbrev Parsed (α : Type) := Except DecodeError (α × List Byte)

/-- Four bytes in offset order. -/
def takeBytes4 : List Byte → Parsed (Bytes 4)
  | a :: b :: c :: d :: rest => .ok (⟨[a, b, c, d], rfl⟩, rest)
  | _ => .error .truncated

/-- A 32-bit pattern, least significant byte first. -/
def takeWord (bs : List Byte) : Parsed Bits32 :=
  match takeBytes4 bs with
  | .ok (b, rest) => .ok (Machine.f32dec b, rest)
  | .error e => .error e

/-- `len` and `len` data bytes. -/
def takePayload : List Byte → Parsed Payload
  | [] => .error .truncated
  | n :: rest =>
    if h : n.toNat ≤ 8 then
      if n.toNat ≤ rest.length then
        .ok (⟨rest.take n.toNat, le_trans (List.length_take_le _ _) h⟩, rest.drop n.toNat)
      else .error .truncated
    else .error .payloadTooLong

/-- What of a poll word makes it no `FRAME` (R64, D10). -/
def pollWordError (w : BitVec 16) : Option DecodeError :=
  if w.getLsbD 12 then some .extendedFrame
  else if w.getLsbD 13 then some .remoteFrame
  else if w.getLsbD 14 || w.getLsbD 15 then some .paddingBits
  else none

/-- The 16-bit word of two bytes, low byte first. -/
def wordOf (lo hi : Byte) : BitVec 16 := hi ++ lo

/-- A poll answer: bit 11 is `avail`, bits 10:0 the ID, don't-care when `avail` is 0 (R69). -/
def takeRx : List Byte → Parsed (Option Frame)
  | lo :: hi :: rest =>
    match pollWordError (wordOf lo hi) with
    | some e => .error e
    | none =>
      if (wordOf lo hi).getLsbD 11 then
        match takePayload rest with
        | .ok (d, rest') => .ok (some ⟨(wordOf lo hi).extractLsb' 0 11, d⟩, rest')
        | .error e => .error e
      else .ok (none, rest)
  | _ => .error .truncated

/-- The commands of LOOP. -/
def takeCmds : List Byte → Parsed (List Bits32)
  | [] => .error .truncated
  | m :: tl =>
    if m = 0 then .ok ([], tl)
    else if m = 1 then
      match tl with
      | a :: b :: c :: d :: rest =>
        match takeCmds rest with
        | .ok (vs, rest') => .ok (Machine.f32dec ⟨[a, b, c, d], rfl⟩ :: vs, rest')
        | .error e => .error e
      | _ => .error .truncated
    else .error .commandMarker

/-- The operand of INIT. -/
def takeBit : List Byte → Parsed Bool
  | [] => .error .truncated
  | b :: rest => if b = 0 then .ok (false, rest) else if b = 1 then .ok (true, rest) else .error .notABit

/-- Ends a reading: only zero bytes may be left. -/
def finish {α : Type} (f : α → Instr) : Parsed α → Except DecodeError Instr
  | .ok (x, rest) => if rest.all (· == 0) then .ok (f x) else .error .trailingBytes
  | .error e => .error e

/-- LOOP's operands: the commands, then the poll answer. -/
def takeIteration (bs : List Byte) : Parsed (List Bits32 × Option Frame) :=
  match takeCmds bs with
  | .ok (vs, rest) =>
    match takeRx rest with
    | .ok (rx, rest') => .ok ((vs, rx), rest')
    | .error e => .error e
  | .error e => .error e

/-- The `STIM` rows of R69. -/
def decodeStim : List Byte → Except DecodeError Instr
  | [] => .error .truncated
  | sel :: rest =>
    if sel.extractLsb' 3 5 ≠ 0 then .error .paddingBits
    else
      match (sel.extractLsb' 0 3).toNat with
      | 0 => finish .f32enc (takeWord rest)
      | 1 => finish .f32dec (takeBytes4 rest)
      | 2 => finish .txcmd (takeWord rest)
      | 3 => finish .rxpoll (takeRx rest)
      | 4 => finish .init (takeBit rest)
      | 5 => finish (fun x => .loop x.1 x.2) (takeIteration rest)
      | 6 => finish (fun _ => .reset) (.ok ((), rest))
      | _ => finish (fun _ => .reserved) (.ok ((), rest))

/-- The sub-case a poll answer selects (R69's `RXSEL` rows in order, R120). -/
def rxCase (p : Params) : Option Frame → Instr
  | none => .rxNone
  | some f => if f.id = p.odomId then .rxOdom f.data else .rxOther f

/-- The `RXSEL` rows of R69. -/
def decodeRxsel (bs : List Byte) : Except DecodeError Instr :=
  finish (rxCase Config.params) (takeRx bs)

/-- The decoder: total, and a refusal carries its reason. -/
def decode (st : Stimulus) : Except DecodeError Instr :=
  match st.format with
  | .stim => decodeStim st.bytes
  | .rxsel => decodeRxsel st.bytes

/-- The poll word of a waiting frame: `avail` = 1 and its ID (R69). -/
def pollWord (id : Id) : BitVec 16 := 0x0800#16 ||| id.setWidth 16

/-- The bytes of a poll answer. -/
def encodeRx : Option Frame → List Byte
  | none => [0, 0]
  | some f =>
    (pollWord f.id).extractLsb' 0 8 :: (pollWord f.id).extractLsb' 8 8 :: BitVec.ofNat 8 f.len :: f.data.bytes

/-- The bytes of LOOP's commands. -/
def encodeCmds : List Bits32 → List Byte
  | [] => [0]
  | v :: vs => 1 :: ((Machine.f32enc v).list ++ encodeCmds vs)

/-- The encoder. -/
def encode : Instr → Stimulus
  | .f32enc p => ⟨.stim, 0x00 :: (Machine.f32enc p).list⟩
  | .f32dec b => ⟨.stim, 0x01 :: b.list⟩
  | .txcmd v => ⟨.stim, 0x02 :: (Machine.f32enc v).list⟩
  | .rxpoll rx => ⟨.stim, 0x03 :: encodeRx rx⟩
  | .rxNone => ⟨.rxsel, encodeRx none⟩
  | .rxOdom data => ⟨.rxsel, encodeRx (some ⟨Config.params.odomId, data⟩)⟩
  | .rxOther f => ⟨.rxsel, encodeRx (some f)⟩
  | .init canOk => ⟨.stim, [0x04, if canOk then 1 else 0]⟩
  | .loop cmds rx => ⟨.stim, 0x05 :: (encodeCmds cmds ++ encodeRx rx)⟩
  | .reset => ⟨.stim, [0x06]⟩
  | .reserved => ⟨.stim, [0x07]⟩

/-- One row of spec/opcode_table.json: a word `w` of the row's format matches when `w &&& mask = value`. -/
structure Row where
  name : String
  format : Format
  value : BitVec 16
  mask : BitVec 16
deriving DecidableEq, Repr

/-- spec/opcode_table.json, in its order; within a format the first match wins (R69). -/
def opcodeTable : List Row :=
  [⟨"F32ENC", .stim, 0x0, 0x7⟩, ⟨"F32DEC", .stim, 0x1, 0x7⟩, ⟨"TXCMD", .stim, 0x2, 0x7⟩, ⟨"RXPOLL", .stim, 0x3, 0x7⟩,
   ⟨"RX.NONE", .rxsel, 0x000, 0x800⟩, ⟨"RX.ODOM", .rxsel, 0xC03, 0xFFF⟩, ⟨"RX.OTHER", .rxsel, 0x800, 0x800⟩,
   ⟨"INIT", .stim, 0x4, 0x7⟩, ⟨"LOOP", .stim, 0x5, 0x7⟩, ⟨"RESET", .stim, 0x6, 0x7⟩, ⟨"(reserved)", .stim, 0x7, 0x7⟩]

/-- The mnemonic the table gives a selector word. -/
def tableMnemonic (fmt : Format) (w : BitVec 16) : Option String :=
  (opcodeTable.find? (fun r => r.format == fmt && w &&& r.mask == r.value)).map Row.name

/-- The selector word a stimulus begins with: one byte of format `stim`, two of format `rxsel`, low byte first. -/
def selectorWord (st : Stimulus) : Option (BitVec 16) :=
  match st.format, st.bytes with
  | .stim, b :: _ => some (b.setWidth 16)
  | .rxsel, lo :: hi :: _ => some (wordOf lo hi)
  | _, _ => none

/-- The stimulus whose selector has the table's bits `w` and whose operand bytes are zeros. A row of at most 8 bits is a
`STIM` row, a wider one an `RXSEL` row (log entry 10). -/
def tableStimulus (nbits w : Nat) : Stimulus :=
  ⟨if nbits ≤ 8 then .stim else .rxsel,
   (List.range ((nbits + 7) / 8)).map (fun k => BitVec.ofNat 8 (w / 256 ^ k)) ++ List.replicate 16 0⟩

/-- The instruction the decoder reads from a table word. -/
def decodeTableWord (nbits w : Nat) : Option Instr :=
  match decode (tableStimulus nbits w) with
  | .ok i => some i
  | .error _ => none

end Sys2Proof
end

