-- ==== Sys2Proof/Machine/State.lean ====
section
/-! DEFINITION. The state of the block (10_state.md R20: MODE and the three message fields), and beside it the inputs not yet
offered, the outputs made and the draw counter, which the model keeps in State because a step is a function of the state
alone (log entries 1 to 5). -/

namespace Sys2Proof.Machine

/-- `MODE` (R24). -/
inductive Mode where
  /-- after reset, before the start-up step has reported -/
  | init
  /-- the polling loop is running -/
  | run
  /-- "program halts forever, no recovery" -/
  | halt
deriving DecidableEq, Repr

/-- `MSG`, the one mutable message record; also what a publication carries (R21, R67). -/
structure Msg where
  x : Bits32
  y : Bits32
  z : Bits32
deriving DecidableEq, Repr

/-- One output: a transmit request on `CAN_TX` or a publication on `MSG_OUT` (R8, R149). -/
inductive Out where
  | tx (f : Frame)
  | pub (m : Msg)
deriving DecidableEq, Repr

/-- One answer on a function port (R9). -/
inductive PortResult where
  | enc (b : Bytes 4)
  | dec (w : Bits32)
deriving DecidableEq, Repr

/-- One input the block has consumed: a command from `CMD_IN` or a frame from `CAN_RX` (R47, R129). -/
inductive Input where
  | cmd (v : Bits32)
  | frame (f : Frame)
deriving DecidableEq, Repr

/-- The causes of `raise Fatal`: one (R160, R161). It is recorded nowhere (R160, D19). -/
inductive FatalCause where
  | canInitFailure
deriving DecidableEq, Repr

/-- The state: the spec's four items (R20), then the model's own fields. -/
structure State where
  /-- `MODE` (R24) -/
  mode : Mode
  /-- `MSG.x`, `MSG.y`, `MSG.z` (R21) -/
  msg : Msg
  /-- the stimulus trace not yet offered, first to come first (the environment's; log entry 1) -/
  stimuli : List Stimulus
  /-- the output list, first emitted first (R8, R50; log entry 2) -/
  out : List Out
  /-- the answers on `ENC` and `DEC`, first given first (log entry 3) -/
  ports : List PortResult
  /-- the commands and frames consumed, first taken first (log entry 4) -/
  taken : List Input
  /-- how many draws have been made (log entry 5) -/
  draws : Nat
deriving DecidableEq, Repr

/-- A message record with `MSG_DEFAULT` in all three fields (R31). -/
def Msg.default (p : Params) : Msg := ⟨p.msgDefault, p.msgDefault, p.msgDefault⟩

/-- The machine right after reset (R31, R180), with nothing offered and nothing emitted. -/
def State.reset : State where
  mode := .init
  msg := Msg.default Config.params
  stimuli := []
  out := []
  ports := []
  taken := []
  draws := 0

/-- No operation of the block stops with a fault: its one exception is taken as a next state (R164), and every buffer access
has a constant offset inside its buffer (R46). So there is no constructor (log entry 25). -/
inductive Fault : Type
deriving DecidableEq, Repr

/-- Why the model gives a stimulus no meaning. Every refusal is safe: it makes claims unprovable, never false. -/
inductive Refusal where
  /-- Raised by an arm of `exec` whose instruction has no meaning yet (none now). Safe. -/
  | notModelled (mnemonic : String)
  /-- Raised by the fetch for a stimulus the decoder refuses, with the decoder's reason. Safe. -/
  | badStimulus (why : DecodeError)
  /-- Raised by `STIM` = 111: no operation (R69, R71). Safe. -/
  | reservedSelector
  /-- Raised by INIT while `MODE` is not INIT: the start-up step is one-time (R141, D16). Safe. -/
  | startupAlreadyReported
  /-- Raised by TXCMD, RXPOLL and its sub-cases, and LOOP while `MODE` = INIT: the loop has not started (R141, D16). Safe. -/
  | loopNotStarted
deriving DecidableEq, Repr

/-- What the fetch finds: nothing to do, an instruction and the state it runs in, or a refusal. -/
inductive Fetched where
  | idle
  | run (i : Instr) (s : State)
  | refuse (r : Refusal)
deriving DecidableEq, Repr

/-- What a step answers. -/
abbrev Answer := Host.Outcome State Fault Refusal

end Sys2Proof.Machine
end

