-- ==== Sys2Proof/Machine/Flags.lean ====
section
/-! DEFINITION. The block has no status flags (10_state.md R26). What stands in their place: the one level output, and the one
comparison that leaves no flag behind. -/

namespace Sys2Proof.Machine

/-- The level output `FATAL` = (`MODE` = HALT) (R24, D13). -/
def State.fatal (s : State) : Bool := s.mode == .halt

/-- The ID test: equality of all 11 bits with `ODOM_ID` (R121). -/
def isOdometryId (p : Params) (id : Id) : Bool := id == p.odomId

end Sys2Proof.Machine
end

