-- ==== Sys2Proof/Machine/Ops.lean ====
section
/-! DEFINITION. The shared operations: writing the named state (00_scope.md R8), emitting outputs, consuming inputs, raising
the one exception (60_exceptions.md R164), the operations of the loop (R110, R120 to R126, R144) and the fetch of the next
stimulus. There is no return from the exception: "program halts forever" (R165). -/

namespace Sys2Proof.Machine

/-- `MODE <- m` (R8). -/
def State.setMode (s : State) (m : Mode) : State := { s with mode := m }

/-- `MSG.x <- w` (R8). -/
def State.setX (s : State) (w : Bits32) : State := { s with msg := { s.msg with x := w } }

/-- `MSG.x <- v`, `MSG.y <- v`, `MSG.z <- v` with `v` = `MSG_DEFAULT` (R180). -/
def State.clearMsg (s : State) (p : Params) : State := { s with msg := Msg.default p }

/-- Append one output (R8 `emit`). -/
def State.emit (s : State) (o : Out) : State := { s with out := s.out ++ [o] }

/-- `emit TX(f)` (R8). -/
def State.emitTx (s : State) (f : Frame) : State := s.emit (.tx f)

/-- `emit PUB(MSG)`: a copy of the three fields as they stand (R8, R125). -/
def State.emitPub (s : State) : State := s.emit (.pub s.msg)

/-- Answer on a function port (R9). -/
def State.answer (s : State) (r : PortResult) : State := { s with ports := s.ports ++ [r] }

/-- Consume one input (R47). -/
def State.take (s : State) (i : Input) : State := { s with taken := s.taken ++ [i] }

/-- Count `k` draws as made (R8 `draw`). -/
def State.countDraws (s : State) (k : Nat) : State := { s with draws := s.draws + k }

/-- `raise Fatal(cause)`, the whole of exception entry: `MODE <- HALT`; nothing is saved, emitted or recorded (R164, R160). -/
def raiseFatal (_cause : FatalCause) (s : State) : State := s.setMode .halt

/-- An operation of the polling loop: executes in RUN, has no effect in HALT, is refused in INIT (R141, R145). -/
def duringLoop (act : State → State) (s : State) : Answer :=
  match s.mode with
  | .init => .refused .loopNotStarted
  | .run => .next (act s)
  | .halt => .next s

/-- TXCMD: take the command, request its frame (R110). -/
def txCmd (p : Params) (v : Bits32) (s : State) : State :=
  (s.take (.cmd v)).emitTx (txFrame p v)

/-- RX.NONE: nothing (R126). -/
def rxNone (s : State) : State := s

/-- RX.ODOM: take the frame, write `MSG.x` from bytes 4 to 7 of `RXBUF`, then publish (R122, R123). -/
def rxOdom (p : Params) (data : Payload) (s : State) : State :=
  (((s.take (.frame ⟨p.odomId, data⟩)).setX (odomField data s.draws)).countDraws (missingBytes data)).emitPub

/-- RX.OTHER: take the frame, publish the record unchanged (R124). -/
def rxOther (f : Frame) (s : State) : State :=
  (s.take (.frame f)).emitPub

/-- RXPOLL: the sub-case the answer selects (R120). -/
def rxPoll (p : Params) (rx : Option Frame) (s : State) : State :=
  match rx with
  | none => rxNone s
  | some f => if isOdometryId p f.id then rxOdom p f.data s else rxOther f s

/-- Phase (a) of an iteration: every command, first to last (R144). -/
def txCmds (p : Params) : List Bits32 → State → State
  | [], s => s
  | v :: vs, s => txCmds p vs (txCmd p v s)

/-- LOOP: phase (a), then one poll (R144). -/
def loopIteration (p : Params) (cmds : List Bits32) (rx : Option Frame) (s : State) : State :=
  rxPoll p rx (txCmds p cmds s)

/-- RESET: in any mode (R180). The trace, the outputs made and the draw counter are not the block's state and stay
(log entry 22). -/
def resetBlock (p : Params) (s : State) : State := (s.setMode .init).clearMsg p

/-- INIT: the outcome of the start-up step (R140); refused outside `MODE` = INIT (R141). -/
def reportStartup (canOk : Bool) (s : State) : Answer :=
  match s.mode with
  | .init => .next (if canOk then s.setMode .run else raiseFatal .canInitFailure s)
  | .run => .refused .startupAlreadyReported
  | .halt => .refused .startupAlreadyReported

/-- The next stimulus. The trace moves on by one; with nothing offered, the block waits for start-up in INIT and otherwise
goes on with an iteration that finds no command and no frame (R144, R145; log entry 12). -/
def fetch (s : State) : Fetched :=
  match s.stimuli with
  | [] => if s.mode = .init then .idle else .run (.loop [] none) s
  | st :: rest =>
    match decode st with
    | .ok i => .run i { s with stimuli := rest }
    | .error e => .refuse (.badStimulus e)

/-- Whether an instruction is one of the polling loop's, which the block asks for in RUN only (R141, R25). -/
def loopInstr : Instr → Bool
  | .txcmd _ => true
  | .rxpoll _ => true
  | .rxNone => true
  | .rxOdom _ => true
  | .rxOther _ => true
  | .loop _ _ => true
  | .f32enc _ => false
  | .f32dec _ => false
  | .init _ => false
  | .reset => false
  | .reserved => false

end Sys2Proof.Machine
end

