-- ==== Sys2Proof/Machine/Coder.lean ====
section
/-! DEFINITION. The float byte coder: F32ENC and F32DEC (40_float_codec.md). -/

namespace Sys2Proof.Machine

/-- F32ENC: port `ENC` answers the four bytes, in every mode (R90, R94). -/
def execF32enc (p : Bits32) (s : State) : Answer := .next (s.answer (.enc (f32enc p)))

/-- F32DEC: port `DEC` answers the 32-bit pattern, in every mode (R91, R94). -/
def execF32dec (b : Bytes 4) (s : State) : Answer := .next (s.answer (.dec (f32dec b)))

end Sys2Proof.Machine
end

