-- ==== Sys2Proof/Machine/Inbound.lean ====
section
/-! DEFINITION. The inbound frame parser: RXPOLL and its three sub-cases (42_inbound.md). A sub-case runs as part of RXPOLL, so
under RXPOLL's mode rule (log entry 16). -/

namespace Sys2Proof.Machine

/-- RXPOLL (R120). -/
def execRxpoll (rx : Option Frame) (s : State) : Answer := duringLoop (rxPoll Config.params rx) s

/-- RX.NONE (R126). -/
def execRxNone (s : State) : Answer := duringLoop rxNone s

/-- RX.ODOM (R122, R123). -/
def execRxOdom (data : Payload) (s : State) : Answer := duringLoop (rxOdom Config.params data) s

/-- RX.OTHER (R124). -/
def execRxOther (f : Frame) (s : State) : Answer := duringLoop (rxOther f) s

end Sys2Proof.Machine
end

