-- ==== Sys2Proof/Machine/Outbound.lean ====
section
/-! DEFINITION. The outbound frame formatter: TXCMD (41_outbound.md). -/

namespace Sys2Proof.Machine

/-- TXCMD (R110). -/
def execTxcmd (v : Bits32) (s : State) : Answer := duringLoop (txCmd Config.params v) s

end Sys2Proof.Machine
end

