-- ==== Sys2Proof/Machine/System.lean ====
section
/-! DEFINITION. Start-up, the polling loop, reset and the reserved selector (43_loop_and_system.md, 70_reset_and_hazards.md). -/

namespace Sys2Proof.Machine

/-- INIT (R140). -/
def execInit (canOk : Bool) (s : State) : Answer := reportStartup canOk s

/-- LOOP (R144). -/
def execLoop (cmds : List Bits32) (rx : Option Frame) (s : State) : Answer :=
  duringLoop (loopIteration Config.params cmds rx) s

/-- RESET (R180). -/
def execReset (s : State) : Answer := .next (resetBlock Config.params s)

/-- `STIM` = 111: "reserved: no operation; refused" (R69, R71). -/
def execReserved (_s : State) : Answer := .refused .reservedSelector

end Sys2Proof.Machine
end

