-- ==== Sys2Proof/Machine/Dispatch.lean ====
section
/-! DEFINITION. One arm per instruction. -/

namespace Sys2Proof.Machine

def exec (i : Instr) (s : State) : Host.Outcome State Fault Refusal :=
  match i with
  | .f32enc p => Sys2Proof.Machine.execF32enc p s
  | .f32dec b => Sys2Proof.Machine.execF32dec b s
  | .txcmd v => Sys2Proof.Machine.execTxcmd v s
  | .rxpoll rx => Sys2Proof.Machine.execRxpoll rx s
  | .rxNone => Sys2Proof.Machine.execRxNone s
  | .rxOdom data => Sys2Proof.Machine.execRxOdom data s
  | .rxOther f => Sys2Proof.Machine.execRxOther f s
  | .init canOk => Sys2Proof.Machine.execInit canOk s
  | .loop cmds rx => Sys2Proof.Machine.execLoop cmds rx s
  | .reset => Sys2Proof.Machine.execReset s
  | .reserved => Sys2Proof.Machine.execReserved s

end Sys2Proof.Machine
end

