-- ==== Sys2Proof/Machine/Step.lean ====
section
/-! DEFINITION. One step: the next stimulus of the trace, executed. -/

namespace Sys2Proof.Machine

def step (s : State) : Host.Outcome State Fault Refusal :=
  match fetch s with
  | .idle => .next s
  | .run i t => exec i t
  | .refuse r => .refused r

/-- `s` with the table word offered as the very next stimulus. The block asks for an operation of its polling loop only in RUN
(R25, R141), so for such a word a state still in INIT is taken past start-up, as `init ok` would (log entry 11). -/
def State.withFetchWord (s : State) (nbits w : Nat) : State :=
  { s with
    stimuli := tableStimulus nbits w :: s.stimuli
    mode :=
      match decodeTableWord nbits w with
      | some i => if loopInstr i && s.mode == .init then .run else s.mode
      | none => s.mode }

end Sys2Proof.Machine
end

