-- ==== Sys2Proof/Machine/Float.lean ====
section
/-! DEFINITION. The fields and classes of the `F32` format (30_encoding.md R62). No operation of the block reads them: they only
name patterns. The layout is the spec's own general knowledge (G1), log entry 29. -/

namespace Sys2Proof.Machine

/-- Bit 31 (R62). -/
def f32Sign (p : Bits32) : BitVec 1 := p.extractLsb' 31 1

/-- Bits 30:23, biased by 127 (R62). -/
def f32Exponent (p : Bits32) : BitVec 8 := p.extractLsb' 23 8

/-- Bits 22:0 (R62). -/
def f32Fraction (p : Bits32) : BitVec 23 := p.extractLsb' 0 23

/-- The classes of R62. -/
inductive FloatClass where
  | zero
  | subnormal
  | normal
  | infinity
  | quietNaN
  | signallingNaN
deriving DecidableEq, Repr

/-- The class of a pattern, by its field values (R62). -/
def f32Class (p : Bits32) : FloatClass :=
  if f32Exponent p = 0 then (if f32Fraction p = 0 then .zero else .subnormal)
  else if f32Exponent p = 255 then
    (if f32Fraction p = 0 then .infinity else if p.getLsbD 22 then .quietNaN else .signallingNaN)
  else .normal

end Sys2Proof.Machine
end

