-- ==== Sys2Proof/Machine/Trace.lean ====
section
/-! DEFINITION. The line forms of a stimulus trace and their expansion (30_encoding.md R76, R77), as a tree and not as text. The
wildcard `_` of R76 is a quantifier of claims and has no form here. -/

namespace Sys2Proof.Machine

/-- The decimal values `f32(...)` may name: those of 95_test_vectors.md section 1 (R77). -/
inductive NamedFloat where
  | plusZero | minusZero | one | minusOne | k085 | twoHalf | minusTwoHalf | twelve | hundred | tenth | pi
deriving DecidableEq, Repr

/-- Their patterns (95_test_vectors.md section 1; the spec's general knowledge, G2; log entry 29). -/
def NamedFloat.bits : NamedFloat → Bits32
  | .plusZero => 0x00000000
  | .minusZero => 0x80000000
  | .one => 0x3F800000
  | .minusOne => 0xBF800000
  | .k085 => 0x3F59999A
  | .twoHalf => 0x40200000
  | .minusTwoHalf => 0xC0200000
  | .twelve => 0x41400000
  | .hundred => 0x42C80000
  | .tenth => 0x3DCCCCCD
  | .pi => 0x40490FDB

/-- What may stand for `<w>`: a literal, `f32(...)`, `K` (R76, R77). -/
inductive WordForm where
  | lit (w : Bits32)
  | f32 (n : NamedFloat)
  | k
deriving DecidableEq, Repr

def WordForm.bits (p : Params) : WordForm → Bits32
  | .lit w => w
  | .f32 n => n.bits
  | .k => p.kBits

/-- What may stand in a byte list: a byte, or `enc(<w>)` for its four bytes (R77). -/
inductive ByteForm where
  | byte (b : Byte)
  | enc (w : WordForm)
deriving DecidableEq, Repr

def ByteForm.bytes (p : Params) : ByteForm → List Byte
  | .byte b => [b]
  | .enc w => (f32enc (w.bits p)).list

/-- The frame `{id, len = number of bytes, data}` of a line; none when the bytes are more than 8 (R76, R64). -/
def frameOf (p : Params) (id : Id) (bs : List ByteForm) : Option Frame :=
  if h : (bs.flatMap (ByteForm.bytes p)).length ≤ 8 then some ⟨id, ⟨bs.flatMap (ByteForm.bytes p), h⟩⟩ else none

/-- The poll part of a line: `none`, or an ID and a byte list (R76). -/
inductive PollForm where
  | none
  | frame (id : Id) (bs : List ByteForm)
deriving DecidableEq, Repr

/-- The poll answer a poll part stands for; the outer none says it stands for none, its frame being too long. -/
def PollForm.answer (p : Params) : PollForm → Option (Option Frame)
  | .none => some Option.none
  | .frame id bs => (frameOf p id bs).map some

/-- The lines of R76. -/
inductive Line where
  | reset
  | initOk
  | initFail
  | enc (w : WordForm)
  | dec (b0 b1 b2 b3 : Byte)
  | cmd (w : WordForm)
  | poll (rx : PollForm)
  | iter (cmds : List WordForm) (rx : PollForm)
deriving DecidableEq, Repr

/-- The operation a line stands for: `cmd <w>` is `iter [<w>] none` and `poll ...` is `iter [] ...` (R76, R77). -/
def Line.instr (p : Params) : Line → Option Instr
  | .reset => some .reset
  | .initOk => some (.init true)
  | .initFail => some (.init false)
  | .enc w => some (.f32enc (w.bits p))
  | .dec b0 b1 b2 b3 => some (.f32dec ⟨[b0, b1, b2, b3], rfl⟩)
  | .cmd w => some (.loop [w.bits p] none)
  | .poll rx => (rx.answer p).map (fun r => .loop [] r)
  | .iter cmds rx => (rx.answer p).map (fun r => .loop (cmds.map (WordForm.bits p)) r)

end Sys2Proof.Machine
end

