-- ==== Sys2Proof/Safety.lean ====
section
/-! DEFINITION. What claims speak of: runs, the invariant (10_state.md R32), the step function of 43_loop_and_system.md R149
written out on its own terms, and when two poll answers cannot be told apart (42_inbound.md R128). -/

namespace Sys2Proof.Safety

open Sys2Proof.Machine

/-- A run over a stimulus trace, stopping at the first refusal (R76, R146). -/
def runEvents : List Instr → State → Answer
  | [], s => .next s
  | i :: is, s =>
    match exec i s with
    | .next t => runEvents is t
    | .fault r => .fault r
    | .refused r => .refused r

/-- The state an answer holds, if it is a next state. -/
def next? : Answer → Option State
  | .next t => some t
  | .fault _ => none
  | .refused _ => none

/-- The refusal an answer holds, if it is one. -/
def refusal? : Answer → Option Refusal
  | .next _ => none
  | .fault _ => none
  | .refused r => some r

/-- Whether an output is a publication. -/
def isPub : Out → Bool
  | .pub _ => true
  | .tx _ => false

/-- The float of a full odometry payload: offsets 4 to 7, least significant byte first (R66). -/
def fullField (data : Payload) : Option Bits32 :=
  match data.bytes with
  | [_, _, _, _, b4, b5, b6, b7] => some (b7 ++ b6 ++ b5 ++ b4)
  | _ => none

/-- The output the block owes for an input it has consumed: a command frame for a command (R110), a publication for a frame
(R128), with the reset values in `y` and `z` (R23) and, for a full odometry frame, its float in `x` (R122). -/
def Answers (p : Params) : Input → Out → Prop
  | .cmd v, .tx f => f = txFrame p v
  | .cmd _, .pub _ => False
  | .frame _, .tx _ => False
  | .frame f, .pub m =>
    m.y = p.msgDefault ∧ m.z = p.msgDefault ∧ (f.id = p.odomId → ∀ w, fullField f.data = some w → m.x = w)

/-- R32 (i); the record still at its defaults outside RUN (R164); `x` away from its default only where an odometry frame was
ever taken; and the outputs answering the consumed inputs one for one and in order (R50, R112, R128). The third clause is
weaker than R32 (iii), which counts since the last RESET: `taken` is not cleared by RESET. R32 (iii) itself speaks of runs
from RESET and is `Obligations.RecordStaysAtDefaultUntilOdometry`. -/
def Inv (s : State) : Prop :=
  s.msg.y = Config.params.msgDefault ∧ s.msg.z = Config.params.msgDefault ∧
  (s.mode ≠ .run → s.msg.x = Config.params.msgDefault) ∧
  (s.msg.x ≠ Config.params.msgDefault → ∃ f, Input.frame f ∈ s.taken ∧ f.id = Config.params.odomId) ∧
  List.Forall₂ (Answers Config.params) s.taken s.out

/-- Whether an instruction is a poll answered by a frame whose ID is `ODOM_ID`, so that it executes RX.ODOM in RUN (R22,
R121). -/
def pollsOdometry (p : Params) : Instr → Bool
  | .rxOdom _ => true
  | .rxpoll (some f) => isOdometryId p f.id
  | .rxpoll none => false
  | .loop _ (some f) => isOdometryId p f.id
  | .loop _ none => false
  | .f32enc _ => false
  | .f32dec _ => false
  | .txcmd _ => false
  | .rxNone => false
  | .rxOther _ => false
  | .init _ => false
  | .reset => false
  | .reserved => false

/-! ### The step function of R149 -/

/-- `State = {mode, x, y, z}` (R149). -/
structure Block where
  mode : Mode
  x : Bits32
  y : Bits32
  z : Bits32
deriving DecidableEq, Repr

/-- `Event` (R149). -/
inductive Event where
  | reset
  | init (canOk : Bool)
  | iter (cmds : List Bits32) (rx : Option Frame)
deriving DecidableEq, Repr

/-- The transmit request R149 writes for one command: `{id = CMD_ID, len = 8, data = F32ENC(K_BITS) ++ F32ENC(v)}`. -/
def blockTx (p : Params) (v : Bits32) : Out :=
  .tx ⟨p.cmdId, ⟨[p.kBits.extractLsb' 0 8, p.kBits.extractLsb' 8 8, p.kBits.extractLsb' 16 8, p.kBits.extractLsb' 24 8,
    v.extractLsb' 0 8, v.extractLsb' 8 8, v.extractLsb' 16 8, v.extractLsb' 24 8], by simp⟩⟩

/-- `buf[i] = f.data[i] if i < f.len else draws(i)` (R149). -/
def blockBuf (data : Payload) (draws : Nat → Byte) (i : Nat) : Byte := data.bytes.getD i (draws i)

/-- `step` of R149; `none` is REFUSED. -/
def blockStep (p : Params) (draws : Nat → Byte) (b : Block) : Event → Option (Block × List Out)
  | .reset => some (⟨.init, p.msgDefault, p.msgDefault, p.msgDefault⟩, [])
  | .init ok =>
    if b.mode = .init then some ({ b with mode := if ok then .run else .halt }, []) else none
  | .iter cmds rx =>
    match b.mode with
    | .init => none
    | .halt => some (b, [])
    | .run =>
      let txs := cmds.map (blockTx p)
      match rx with
      | none => some (b, txs)
      | some f =>
        if f.id = p.odomId then
          let buf := blockBuf f.data draws
          let x' := buf 7 ++ buf 6 ++ buf 5 ++ buf 4
          some ({ b with x := x' }, txs ++ [.pub ⟨x', b.y, b.z⟩])
        else some (b, txs ++ [.pub ⟨b.x, b.y, b.z⟩])

/-- The part of the model's state that R149 calls the state. -/
def toBlock (s : State) : Block := ⟨s.mode, s.msg.x, s.msg.y, s.msg.z⟩

/-- The instruction an event of R149 is. -/
def Event.toInstr : Event → Instr
  | .reset => .reset
  | .init ok => .init ok
  | .iter cmds rx => .loop cmds rx

/-- The draws the model makes for a frame of `len` bytes: byte `i` of `RXBUF`, when not supplied. -/
def drawsOf (s : State) (len : Nat) (i : Nat) : Byte := Config.draw (s.draws + (i - len))

/-- The number of bytes of the polled frame of an event, 8 where there is none. -/
def Event.len : Event → Nat
  | .reset => 8
  | .init _ => 8
  | .iter _ none => 8
  | .iter _ (some f) => f.len

/-! ### Runs of loop iterations -/

/-- The operands of one LOOP. -/
abbrev Iteration := List Bits32 × Option Frame

/-- The LOOP instruction of an iteration. -/
def loopOf (it : Iteration) : Instr := .loop it.1 it.2

/-- `MSG.x` after a poll answer whose odometry frame, if it is one, is full (R128 ii). -/
def xAfter (p : Params) (x : Bits32) (it : Iteration) : Bits32 :=
  match it.2 with
  | none => x
  | some f => if f.id = p.odomId then (fullField f.data).getD x else x

/-- An iteration whose odometry frame, if it polls one, has its 8 bytes (R190). -/
def FullOdometry (p : Params) (it : Iteration) : Prop :=
  ∀ f, it.2 = some f → f.id = p.odomId → f.len = 8

/-- Two poll answers the block must not tell apart (R128 iii, iv): no frame and no frame; two odometry frames of one length
that agree from offset 4 on; two frames of other IDs. -/
def SameReading (p : Params) : Option Frame → Option Frame → Prop
  | none, none => True
  | none, some _ => False
  | some _, none => False
  | some f, some g =>
    (f.id = p.odomId ∧ g.id = p.odomId ∧ f.len = g.len ∧ f.data.bytes.drop 4 = g.data.bytes.drop 4) ∨
    (f.id ≠ p.odomId ∧ g.id ≠ p.odomId)

/-- Two states alike in everything but which inputs were consumed and which are still to come. -/
def Alike (s t : State) : Prop :=
  s.mode = t.mode ∧ s.msg = t.msg ∧ s.out = t.out ∧ s.ports = t.ports ∧ s.draws = t.draws

end Sys2Proof.Safety
end

