-- ==== Sys2Proof/Certificates/Slice0/Obligations.lean ====
section
/-! DEFINITION. The statements for the provers. A full equation of the next state is also its frame: every field the equation
does not name is unchanged. `Config.params` holds the hardwired values of 10_state.md R27. Where a statement names `out`,
`ports` or `taken`, it speaks of the lists in which the model records what the rules say is emitted (R8), answered on a
port (R9) and consumed (R47): that they are recorded is the model's choice, log entries 2, 3 and 4. -/

open Sys2Proof Sys2Proof.Machine Sys2Proof.Safety

/-! ### The float byte coder (40_float_codec.md) -/

/-- R90: F32ENC answers, in every mode, the four bytes of `p`, least significant first, and changes nothing else. -/
def Obligations.F32encAnswersBytesLowFirst : Prop :=
  ∀ (p : Bits32) (s : State), ∃ e : Bytes 4,
    exec (.f32enc p) s = .next { s with ports := s.ports ++ [.enc e] } ∧
    e.get 0 = p.extractLsb' 0 8 ∧ e.get 1 = p.extractLsb' 8 8 ∧ e.get 2 = p.extractLsb' 16 8 ∧ e.get 3 = p.extractLsb' 24 8 ∧
    ∀ i : Fin 4, (e.get i).toNat = p.toNat / 256 ^ i.val % 256

/-- R91: F32DEC answers, in every mode, `b[3] : b[2] : b[1] : b[0]`, and changes nothing else. -/
def Obligations.F32decAnswersConcatenation : Prop :=
  ∀ (b : Bytes 4) (s : State), ∃ w : Bits32,
    exec (.f32dec b) s = .next { s with ports := s.ports ++ [.dec w] } ∧
    w = b.get 3 ++ b.get 2 ++ b.get 1 ++ b.get 0 ∧
    w.toNat = (b.get 0).toNat + 256 * (b.get 1).toNat + 65536 * (b.get 2).toNat + 16777216 * (b.get 3).toNat

/-- R92: decoding the encoding of a pattern gives the pattern, as functions and through the two ports. -/
def Obligations.DecodingAnEncodedFloatGivesItBack : Prop :=
  ∀ p : Bits32, f32dec (f32enc p) = p ∧
    ∀ s : State, ∃ (e : Bytes 4) (t : State),
      exec (.f32enc p) s = .next t ∧ t.ports = s.ports ++ [.enc e] ∧
      exec (.f32dec e) t = .next { t with ports := t.ports ++ [.dec p] }

/-- 40_float_codec.md section 2 (the spec derives it): F32ENC is a bijection and F32DEC its inverse. -/
def Obligations.CoderIsABijection : Prop :=
  (∀ b : Bytes 4, f32enc (f32dec b) = b) ∧ Function.Bijective f32enc ∧ Function.Bijective f32dec

/-- 30_encoding.md section 2: bit `j` of byte `i` of an encoded float is bit `8 i + j` of the float. The second clause, the
fields each byte holds, rests on the field layout, which the spec marks as general knowledge (G1; log entry 29, PRESUMED);
the third, that every quadruple is the encoding of exactly one pattern, the spec derives (40_float_codec.md section 2). -/
def Obligations.EncodedFloatBitPlaces : Prop :=
  (∀ (p : Bits32) (i : Fin 4) (j : Nat), j < 8 → ((f32enc p).get i).getLsbD j = p.getLsbD (8 * i.val + j)) ∧
  (∀ p : Bits32,
    (f32enc p).get 0 = (f32Fraction p).extractLsb' 0 8 ∧ (f32enc p).get 1 = (f32Fraction p).extractLsb' 8 8 ∧
    (f32enc p).get 2 = (f32Exponent p).extractLsb' 0 1 ++ (f32Fraction p).extractLsb' 16 7 ∧
    (f32enc p).get 3 = f32Sign p ++ (f32Exponent p).extractLsb' 1 7) ∧
  (∀ b : Bytes 4, ∃! p, f32enc p = b)

/-! ### The outbound path (41_outbound.md) -/

/-- R110: in RUN, TXCMD makes exactly one request, for the frame with ID `CMD_ID`, length 8, the constant in offsets 0 to 3
and the command in offsets 4 to 7, and changes nothing else; in no other mode does it execute. -/
def Obligations.TxcmdRequestsTheCommandFrame : Prop :=
  ∀ (v : Bits32) (s : State),
    (s.mode = .run → ∃ f : Frame,
      exec (.txcmd v) s = .next { s with out := s.out ++ [.tx f], taken := s.taken ++ [.cmd v] } ∧
      f.id = Config.params.cmdId ∧ f.len = 8 ∧
      f.data.bytes = (f32enc Config.params.kBits).list ++ (f32enc v).list ∧
      f.data.bytes = [0x9A, 0x99, 0x59, 0x3F, v.extractLsb' 0 8, v.extractLsb' 8 8, v.extractLsb' 16 8, v.extractLsb' 24 8]) ∧
    (s.mode ≠ .run → ∀ t, exec (.txcmd v) s = .next t → t = s)

/-- 41_outbound.md (the spec derives it), for every choice of the parameters: both fields of the frame decode to what was put
in, the frame determines the command, and the frame polled back is one of RX.OTHER when the two IDs differ. -/
def Obligations.CommandFrameCarriesTheCommand : Prop :=
  ∀ (p : Params) (v : Bits32),
    f32dec (memRead (txPay p v) 4 4) = v ∧ f32dec (memRead (txPay p v) 0 4) = p.kBits ∧
    (txFrame p v).data = payloadOf (txPay p v) ∧ (txFrame p v).id = p.cmdId ∧ (txFrame p v).len = 8 ∧
    (∀ w, txFrame p v = txFrame p w → v = w) ∧
    (p.cmdId ≠ p.odomId → ∀ s : State, rxPoll p (some (txFrame p v)) s = rxOther (txFrame p v) s ∧
      (rxPoll p (some (txFrame p v)) s).msg = s.msg)

/-- 20_memory.md section 1 (the block transmits no ID but `CMD_ID`): every request an instruction adds is a command frame. -/
def Obligations.OnlyCommandFramesAreSent : Prop :=
  ∀ (i : Instr) (s t : State) (f : Frame), exec i s = .next t → Out.tx f ∈ t.out →
    Out.tx f ∈ s.out ∨
      (f.id = 0x501 ∧ f.len = 8 ∧ ∃ v : Bits32, f = txFrame Config.params v ∧ Input.cmd v ∈ t.taken)

/-! ### The inbound path (42_inbound.md) -/

/-- R120, R121: RXPOLL executes in RUN only; the poll's answer selects the sub-case; all 11 bits of the ID decide, and 0x403
alone selects RX.ODOM. -/
def Obligations.PollSelectsTheSubcase : Prop :=
  (∀ (rx : Option Frame) (s : State), s.mode = .run → ∃ t, exec (.rxpoll rx) s = .next t ∧ t.mode = .run) ∧
  (∀ (rx : Option Frame) (s t : State), s.mode ≠ .run → exec (.rxpoll rx) s = .next t → t = s) ∧
  (∀ s : State, exec (.rxpoll none) s = exec .rxNone s) ∧
  (∀ (f : Frame) (s : State), f.id = 0x403 → exec (.rxpoll (some f)) s = exec (.rxOdom f.data) s) ∧
  (∀ (f : Frame) (s : State), f.id ≠ 0x403 → exec (.rxpoll (some f)) s = exec (.rxOther f) s) ∧
  (∀ id : Id, (∀ (data : Payload) (s : State), exec (.rxpoll (some ⟨id, data⟩)) s = exec (.rxOdom data) s) ↔ id = 0x403)

/-- R126: a poll that finds no frame changes nothing and emits nothing. -/
def Obligations.NoFrameNoEffect : Prop :=
  ∀ s : State, s.mode = .run → exec .rxNone s = .next s ∧ exec (.rxpoll none) s = .next s

/-- R122: a full odometry frame writes `MSG.x` from offsets 4 to 7 and then publishes; offsets 0 to 3 play no part. -/
def Obligations.FullOdometryFrameIsDecodedAndPublished : Prop :=
  ∀ (b0 b1 b2 b3 b4 b5 b6 b7 : Byte) (h : [b0, b1, b2, b3, b4, b5, b6, b7].length ≤ 8) (s : State), s.mode = .run →
    let data : Payload := ⟨[b0, b1, b2, b3, b4, b5, b6, b7], h⟩
    let m : Msg := { s.msg with x := b7 ++ b6 ++ b5 ++ b4 }
    let t : State := { s with msg := m, out := s.out ++ [.pub m], taken := s.taken ++ [.frame ⟨0x403, data⟩] }
    exec (.rxOdom data) s = .next t ∧ exec (.rxpoll (some ⟨0x403, data⟩)) s = .next t

/-- 42_inbound.md section on short payloads (spec decision D9): the bytes of `MSG.x` the frame supplies come from it, every
other byte is a fresh draw, the record is published once, and nothing else changes. The draws are free values (log entry 5):
the statement holds whatever they are. -/
def Obligations.ShortOdometryFrameDrawsTheMissingBytes : Prop :=
  ∀ (data : Payload) (s : State), s.mode = .run → data.bytes.length < 8 → ∃ w : Bits32,
    let m : Msg := { s.msg with x := w }
    let t : State :=
      { s with msg := m, out := s.out ++ [.pub m], taken := s.taken ++ [.frame ⟨0x403, data⟩],
               draws := s.draws + (8 - data.bytes.length) }
    exec (.rxOdom data) s = .next t ∧ exec (.rxpoll (some ⟨0x403, data⟩)) s = .next t ∧
    ∀ i < 4,
      (∀ b, data.bytes[4 + i]? = some b → w.extractLsb' (8 * i) 8 = b) ∧
      (data.bytes.length ≤ 4 + i →
        w.extractLsb' (8 * i) 8 = Config.draw (s.draws + (4 + i - data.bytes.length)))

/-- R124: a frame of any other ID, of any length and content, publishes the record unchanged and changes nothing else. -/
def Obligations.OtherFrameRepublishesTheRecord : Prop :=
  ∀ (f : Frame) (s : State), s.mode = .run → f.id ≠ 0x403 →
    let t : State := { s with out := s.out ++ [.pub s.msg], taken := s.taken ++ [.frame f] }
    exec (.rxOther f) s = .next t ∧ exec (.rxpoll (some f)) s = .next t

/-- The model's choice (log entry 16), no rule of the spec: RX.OTHER with the ill-formed operand of ID 0x403, which the decoder
never gives, republishes the record too, where RXPOLL of the same frame decodes it. -/
def Obligations.IllFormedOtherFrameRepublishesToo : Prop :=
  ∀ (f : Frame) (s : State), s.mode = .run → f.id = 0x403 →
    (Instr.rxOther f).wf = false ∧ (∀ st, decode st ≠ .ok (.rxOther f)) ∧
    exec (.rxOther f) s = .next { s with out := s.out ++ [.pub s.msg], taken := s.taken ++ [.frame f] }

/-- R22: `MSG.x` is written in RUN by a polled odometry frame and otherwise by RESET alone; every pattern can be written. -/
def Obligations.OnlyOdometryWritesX : Prop :=
  (∀ (i : Instr) (s t : State), exec i s = .next t → t.msg.x ≠ s.msg.x →
    i = .reset ∨ (s.mode = .run ∧
      ((∃ data, i = .rxOdom data) ∨ (∃ f, i = .rxpoll (some f) ∧ f.id = 0x403) ∨
       (∃ cmds f, i = .loop cmds (some f) ∧ f.id = 0x403)))) ∧
  (∀ (w : Bits32) (s : State), s.mode = .run →
    ∃ (f : Frame) (t : State), f.id = 0x403 ∧ exec (.rxpoll (some f)) s = .next t ∧ t.msg.x = w)

/-- 10_state.md section 1 (spec decision D22): no operation but RESET writes `MSG.y` or `MSG.z`. -/
def Obligations.OnlyResetWritesYAndZ : Prop :=
  ∀ (i : Instr) (s t : State), exec i s = .next t → i ≠ .reset → t.msg.y = s.msg.y ∧ t.msg.z = s.msg.z

/-! ### Start-up, the loop, halt, reset (43_loop_and_system.md, 60_exceptions.md, 70_reset_and_hazards.md) -/

/-- R140: INIT in mode INIT moves to RUN or raises Fatal, and changes nothing else; in no other mode does it execute. -/
def Obligations.InitReportsStartup : Prop :=
  ∀ (canOk : Bool) (s : State),
    (s.mode = .init →
      exec (.init canOk) s = .next { s with mode := if canOk then .run else .halt } ∧
      (∀ t, exec (.init canOk) s = .next t → t.fatal = !canOk)) ∧
    (s.mode ≠ .init → ∀ t, exec (.init canOk) s ≠ .next t)

/-- R161, R164: the one exception is raised by INIT with `can_ok` = 0 before the loop starts, and by nothing else; its entry
sets `MODE` to HALT and changes nothing else. -/
def Obligations.OnlyAFailedStartHalts : Prop :=
  (∀ s : State, raiseFatal .canInitFailure s = { s with mode := .halt }) ∧
  (∀ s : State, s.mode = .init → exec (.init false) s = .next (raiseFatal .canInitFailure s)) ∧
  (∀ (i : Instr) (s t : State), exec i s = .next t → s.mode ≠ .halt → t.mode = .halt →
    i = .init false ∧ s.mode = .init ∧ t = { s with mode := .halt })

/-- R144: in RUN an iteration requests one frame per command, in order, then answers the poll; the phases do not interact. In
no other mode does LOOP execute. The odometry frame here is a full one; a short one is `LoopWithAShortOdometryFrame`. -/
def Obligations.LoopServesCommandsThenPolls : Prop :=
  (∀ (cmds : List Bits32) (rx : Option Frame) (s t : State), s.mode ≠ .run → exec (.loop cmds rx) s = .next t → t = s) ∧
  ∀ (cmds : List Bits32) (s : State), s.mode = .run →
    let u : State :=
      { s with out := s.out ++ cmds.map (fun v => .tx (txFrame Config.params v)), taken := s.taken ++ cmds.map .cmd }
    exec (.loop cmds none) s = .next u ∧
    (∀ f : Frame, f.id ≠ 0x403 →
      exec (.loop cmds (some f)) s =
        .next { u with out := u.out ++ [.pub s.msg], taken := u.taken ++ [.frame f] }) ∧
    (∀ (f : Frame) (b0 b1 b2 b3 b4 b5 b6 b7 : Byte), f.id = 0x403 → f.data.bytes = [b0, b1, b2, b3, b4, b5, b6, b7] →
      let m : Msg := { s.msg with x := b7 ++ b6 ++ b5 ++ b4 }
      exec (.loop cmds (some f)) s = .next { u with msg := m, out := u.out ++ [.pub m], taken := u.taken ++ [.frame f] })

/-- 43_loop_and_system.md section 2 with 42_inbound.md on short payloads (spec decision D9): an iteration that polls a short
odometry frame serves the commands as any other, then makes `MSG.x` of the bytes the frame supplies and a fresh draw for
each other byte, publishes the record once and counts the draws. The draws and their counter are the model's free value
(log entry 5, DESIGN CHOICE): the statement holds whatever they are. -/
def Obligations.LoopWithAShortOdometryFrame : Prop :=
  ∀ (cmds : List Bits32) (f : Frame) (s : State), s.mode = .run → f.id = 0x403 → f.len < 8 → ∃ w : Bits32,
    let m : Msg := { s.msg with x := w }
    exec (.loop cmds (some f)) s =
      .next { s with msg := m,
                     out := s.out ++ cmds.map (fun v => .tx (txFrame Config.params v)) ++ [.pub m],
                     taken := s.taken ++ cmds.map .cmd ++ [.frame f], draws := s.draws + (8 - f.len) } ∧
    ∀ i < 4,
      (∀ b, f.data.bytes[4 + i]? = some b → w.extractLsb' (8 * i) 8 = b) ∧
      (f.len ≤ 4 + i → w.extractLsb' (8 * i) 8 = Config.draw (s.draws + (4 + i - f.len)))

/-- 43_loop_and_system.md section 2 (spec decision D13): in HALT every operation of the loop is a step with no effect: no
output, no state change, and no input consumed. -/
def Obligations.HaltIgnoresTheLoop : Prop :=
  ∀ s : State, s.mode = .halt →
    s.fatal = true ∧
    (∀ v, exec (.txcmd v) s = .next s) ∧ (∀ rx, exec (.rxpoll rx) s = .next s) ∧ exec .rxNone s = .next s ∧
    (∀ data, exec (.rxOdom data) s = .next s) ∧ (∀ f, exec (.rxOther f) s = .next s) ∧
    (∀ cmds rx, exec (.loop cmds rx) s = .next s)

/-- 43_loop_and_system.md section 2 and 60_exceptions.md section 2 (spec decision D13): over any trace without RESET, HALT
stays HALT, nothing is emitted, consumed or written. -/
def Obligations.HaltLastsUntilReset : Prop :=
  ∀ (is : List Instr) (s t : State), s.mode = .halt → .reset ∉ is → runEvents is s = .next t →
    t.mode = .halt ∧ t.msg = s.msg ∧ t.out = s.out ∧ t.taken = s.taken ∧ t.draws = s.draws

/-- 43_loop_and_system.md section 1, the table of operations and modes (spec decision D16): exactly which instructions are
refused in which mode, and by which name; everything else answers a next state. -/
def Obligations.RefusedExactlyOutOfMode : Prop :=
  ∀ (i : Instr) (s : State),
    (exec i s = .refused .loopNotStarted ↔ loopInstr i = true ∧ s.mode = .init) ∧
    (exec i s = .refused .startupAlreadyReported ↔ (∃ b, i = .init b) ∧ s.mode ≠ .init) ∧
    (exec i s = .refused .reservedSelector ↔ i = .reserved) ∧
    ((∃ t, exec i s = .next t) ↔
      ¬ (loopInstr i = true ∧ s.mode = .init) ∧ ¬ ((∃ b, i = .init b) ∧ s.mode ≠ .init) ∧ i ≠ .reserved)

/-- 10_state.md section 2: `MODE` moves only by RESET, and by INIT out of INIT. -/
def Obligations.ModeMovesOnlyByInitAndReset : Prop :=
  ∀ (i : Instr) (s t : State), exec i s = .next t → t.mode ≠ s.mode →
    (i = .reset ∧ t.mode = .init) ∨ (i = .init true ∧ s.mode = .init ∧ t.mode = .run) ∨
    (i = .init false ∧ s.mode = .init ∧ t.mode = .halt)

/-- 70_reset_and_hazards.md section 1 (spec decisions D14, D5): RESET executes in every mode, sets `MODE` and the record, and
emits nothing. That it leaves the trace, the outputs made and the draw counter is the model's choice (log entry 22). -/
def Obligations.ResetRestoresModeAndRecord : Prop :=
  ∀ s : State,
    exec .reset s =
      .next { s with mode := .init,
                     msg := ⟨Config.params.msgDefault, Config.params.msgDefault, Config.params.msgDefault⟩ } ∧
    ∀ t, exec .reset s = .next t → t.fatal = false

/-- 10_state.md section 4 (spec decisions D14, D5): the state after reset. The value 0 of `MSG_DEFAULT` is a choice (log
entry 6). -/
def Obligations.StateAfterReset : Prop :=
  State.reset.mode = .init ∧ State.reset.msg.x = Config.params.msgDefault ∧ State.reset.msg.y = Config.params.msgDefault ∧
  State.reset.msg.z = Config.params.msgDefault ∧ Config.params.msgDefault = 0 ∧ State.reset.fatal = false ∧
  core.reset = State.reset

/-- 70_reset_and_hazards.md section 2 (the spec's decisions D14, D16): from any state, RESET and then a successful start-up lead
to RUN with the record at its defaults and nothing emitted; RESET and a failed one lead to HALT; and no operation of the
loop is served between RESET and start-up. -/
def Obligations.StartUpComesBetweenResetAndTheLoop : Prop :=
  ∀ s : State,
    (∃ t, runEvents [.reset, .init true] s = .next t ∧ t.mode = .run ∧ t.msg = Msg.default Config.params ∧ t.out = s.out) ∧
    (∃ t, runEvents [.reset, .init false] s = .next t ∧ t.mode = .halt ∧ t.msg = Msg.default Config.params ∧ t.out = s.out) ∧
    (∀ i, loopInstr i = true → runEvents [.reset, i] s = .refused .loopNotStarted)

/-- 30_encoding.md section 5: the reserved selector is refused, in every state. -/
def Obligations.ReservedSelectorIsRefused : Prop :=
  ∀ s : State, exec .reserved s = .refused .reservedSelector

/-! ### Frames and whole-machine rules -/

/-- The frame of the loop's operations: mode, `y`, `z`, the port answers and the trace stay; where no odometry frame is
polled, the whole record and the draw counter stay too (10_state.md section 1, 41_outbound.md, 42_inbound.md). -/
def Obligations.LoopOperationsFrame : Prop :=
  ∀ (i : Instr) (s t : State), loopInstr i = true → exec i s = .next t →
    t.mode = s.mode ∧ t.msg.y = s.msg.y ∧ t.msg.z = s.msg.z ∧ t.ports = s.ports ∧ t.stimuli = s.stimuli ∧
    ((∀ data, i ≠ .rxOdom data) → (∀ f, i = .rxpoll (some f) → f.id ≠ 0x403) →
      (∀ cmds f, i = .loop cmds (some f) → f.id ≠ 0x403) → t.msg = s.msg ∧ t.draws = s.draws)

/-- 20_memory.md section 4 and 42_inbound.md: outputs, port answers and consumed inputs are only ever added to, and one
instruction publishes at most once. -/
def Obligations.OutputsAreNeverRetracted : Prop :=
  ∀ (i : Instr) (s t : State), exec i s = .next t →
    s.out <+: t.out ∧ s.ports <+: t.ports ∧ s.taken <+: t.taken ∧
    (t.out.filter isPub).length ≤ (s.out.filter isPub).length + 1

/-- The invariant holds at reset (10_state.md section 5). -/
def Obligations.InvariantHoldsAtReset : Prop := Inv State.reset

/-- Every step keeps the invariant (10_state.md section 5; 20_memory.md section 4; 42_inbound.md): `y` and `z` hold their
default, the record is at its defaults outside RUN, `x` differs from its default only if an odometry frame was ever taken,
and the outputs answer the consumed inputs one for one, in order. What R32 (iii) says of the time since the last RESET is
`RecordStaysAtDefaultUntilOdometry`. -/
def Obligations.EveryStepKeepsTheInvariant : Prop :=
  ∀ s t : State, Inv s → step s = .next t → Inv t

/-! ### Encoding and fetching (30_encoding.md; the operand layout is the model's, log entries 9 and 10) -/

/-- Decoding the encoding of a well-formed instruction gives it back, with every operand, zero bytes after it or not. -/
def Obligations.DecodeOfEncodeIsTheInstruction : Prop :=
  ∀ (i : Instr) (n : Nat), i.wf = true →
    decode (encode i) = .ok i ∧
    decode ⟨(encode i).format, (encode i).bytes ++ List.replicate n 0⟩ = .ok i

/-- Words written out from the selectors of R69, one for each row of the opcode table, decode to their rows; the operands are
zeros (their layout is the model's: log entry 9). -/
def Obligations.SelectorWordsDecode : Prop :=
  decodeTableWord 8 0 = some (.f32enc 0) ∧ decodeTableWord 8 1 = some (.f32dec ⟨[0, 0, 0, 0], by simp⟩) ∧
  decodeTableWord 8 2 = some (.txcmd 0) ∧ decodeTableWord 8 3 = some (.rxpoll none) ∧
  decodeTableWord 8 4 = some (.init false) ∧ decodeTableWord 8 5 = some (.loop [] none) ∧
  decodeTableWord 8 6 = some .reset ∧ decodeTableWord 8 7 = some .reserved ∧ decodeTableWord 16 0x000 = some .rxNone ∧
  decodeTableWord 16 0xC03 = some (.rxOdom ⟨[], by simp⟩) ∧
  decodeTableWord 16 0x923 = some (.rxOther ⟨0x123, ⟨[], by simp⟩⟩)

/-- The RXSEL dispatch of R69 over all 4096 words: bit 11 clear is RX.NONE whatever the ID bits, 0xC03 alone is RX.ODOM, every
other word is RX.OTHER with its ID; and it is the row opcode_table.json matches first. -/
def Obligations.PollWordsDispatchByTheTable : Prop :=
  ∀ w : BitVec 12,
    let st : Stimulus := ⟨.rxsel, [w.extractLsb' 0 8, (w.extractLsb' 8 4).setWidth 8, 0]⟩
    ∃ i, decode st = .ok i ∧ tableMnemonic .rxsel (w.setWidth 16) = some i.mnemonic ∧
      (w.getLsbD 11 = false → i = .rxNone) ∧
      (w = 0xC03 → ∃ data, i = .rxOdom data ∧ data.bytes = []) ∧
      (w.getLsbD 11 = true → w ≠ 0xC03 → ∃ f, i = .rxOther f ∧ f.id = w.extractLsb' 0 11 ∧ f.data.bytes = [])

/-- What the decoder reads is well formed, from any bytes (whose layout is the model's: log entry 9). -/
def Obligations.DecodedInstructionsAreWellFormed : Prop :=
  ∀ (st : Stimulus) (i : Instr), decode st = .ok i → i.wf = true

/-- 30_encoding.md sections 2 and 5 (spec decision D10): a polled extended frame, remote frame or frame of more than 8 bytes
is refused, by name, whether the poll answer comes as an RXSEL word, as the operand of RXPOLL (`STIM` 011), or behind any
commands as the operand of LOOP (`STIM` 101). The places of the markers are the model's (log entry 14). -/
def Obligations.WhatIsNoFrameIsRefused : Prop :=
  ∀ (lo hi n : Byte) (rest : List Byte) (cmds : List Bits32) (st : Stimulus),
    let w : BitVec 16 := wordOf lo hi
    let answer : List Byte := lo :: hi :: n :: rest
    st ∈ [⟨.rxsel, answer⟩, ⟨.stim, 0x03 :: answer⟩, ⟨.stim, 0x05 :: (encodeCmds cmds ++ answer)⟩] →
    (w.getLsbD 12 = true → decode st = .error .extendedFrame) ∧
    (w.getLsbD 12 = false → w.getLsbD 13 = true → decode st = .error .remoteFrame) ∧
    (w.extractLsb' 12 4 = 0 → w.getLsbD 11 = true → 8 < n.toNat → decode st = .error .payloadTooLong)

/-- A step takes the next stimulus off the trace and runs the instruction it decodes to. That the trace stands in the state and
a step takes its head is the model's choice (log entry 1, DESIGN CHOICE), no rule of the spec. -/
def Obligations.StepRunsTheDecodedInstruction : Prop :=
  ∀ (s : State) (st : Stimulus) (rest : List Stimulus) (i : Instr),
    s.stimuli = st :: rest → decode st = .ok i → step s = exec i { s with stimuli := rest }

/-- A step refuses, by the decoder's reason, a stimulus that does not decode. The spec says which inputs are refused (R71); that
a step reads the head of a trace held in the state and answers the decoder's reason is the model's choice (log entries 1
and 9, DESIGN CHOICE). -/
def Obligations.StepRefusesWhatDoesNotDecode : Prop :=
  ∀ (s : State) (st : Stimulus) (rest : List Stimulus) (e : DecodeError),
    s.stimuli = st :: rest → decode st = .error e → step s = .refused (.badStimulus e)

/-- With nothing offered a step changes nothing in any mode (the model's reading of R144 and R145: log entry 12; the
trace in the state: log entry 1). -/
def Obligations.StepWithNothingOfferedChangesNothing : Prop :=
  ∀ s : State, s.stimuli = [] → step s = .next s

/-- A step that answers a next state leaves the tail of the trace: one stimulus fewer, or none fewer where the trace is empty.
The trace in the state is the model's choice (log entry 1, DESIGN CHOICE). -/
def Obligations.StepTakesOneStimulus : Prop :=
  ∀ s t : State, step s = .next t → t.stimuli = s.stimuli.tail

/-- A run of the machine over the encoded trace is the run of the instructions themselves. -/
def Obligations.MachineRunsTheEncodedTrace : Prop :=
  ∀ (is : List Instr) (rest : List Stimulus) (s : State), (∀ i ∈ is, i.wf = true) →
    core.run is.length { s with stimuli := is.map encode ++ rest } = runEvents is { s with stimuli := rest }

/-! ### Headlines over runs -/

/-- 43_loop_and_system.md section 4: the model's meanings of RESET, INIT and LOOP are the step function the spec assembles, on
its own state and outputs, with the model's draws for its draws. -/
def Obligations.MeaningsAreTheAssembledStepFunction : Prop :=
  ∀ (e : Event) (s : State),
    match blockStep Config.params (drawsOf s e.len) (toBlock s) e with
    | some (b, outs) => ∃ t, exec e.toInstr s = .next t ∧ toBlock t = b ∧ t.out = s.out ++ outs
    | none => ∃ r, exec e.toInstr s = .refused r

/-- 42_inbound.md, the properties of polling (the spec derives them): any run of iterations in RUN goes through, short odometry
frames or not; the publications are as many as the frames polled and the requests as many as the commands; and where every
odometry frame is full, `MSG.x` is the field of the latest one, or what it was. -/
def Obligations.PollingProperties : Prop :=
  ∀ (its : List Iteration) (s : State), s.mode = .run →
    ∃ t, runEvents (its.map loopOf) s = .next t ∧ t.mode = .run ∧ t.msg.y = s.msg.y ∧ t.msg.z = s.msg.z ∧
      (t.out.filter isPub).length = (s.out.filter isPub).length + (its.filter (fun it => it.2.isSome)).length ∧
      (t.out.filter (fun o => !isPub o)).length =
        (s.out.filter (fun o => !isPub o)).length + (its.map (fun it => it.1.length)).sum ∧
      ((∀ it ∈ its, FullOdometry Config.params it) → t.msg.x = its.foldl (xAfter Config.params) s.msg.x)

/-- 10_state.md section 5, part (iii) (the spec derives it): after RESET, over any trace that polls no odometry frame, or in
which no start-up succeeds, the record keeps its defaults; so `MSG.x` differs from `MSG_DEFAULT` only if an odometry frame
has been polled since RESET. -/
def Obligations.RecordStaysAtDefaultUntilOdometry : Prop :=
  ∀ (is : List Instr) (s t : State), runEvents (.reset :: is) s = .next t →
    ((∀ i ∈ is, pollsOdometry Config.params i = false) → t.msg = Msg.default Config.params) ∧
    (.init true ∉ is → t.msg = Msg.default Config.params) ∧
    (t.msg.x ≠ Config.params.msgDefault → ∃ i ∈ is, pollsOdometry Config.params i = true)

/-- 42_inbound.md, the properties of polling (the spec derives them): bytes 0 to 3 of an odometry payload, and the ID and
payload of any other frame, never influence state or output, over any run of iterations. -/
def Obligations.UnreadBytesNeverInfluenceTheRun : Prop :=
  ∀ (its jts : List Iteration) (s t s' : State),
    List.Forall₂ (fun it jt => it.1 = jt.1 ∧ SameReading Config.params it.2 jt.2) its jts → Alike s t →
    runEvents (its.map loopOf) s = .next s' →
    ∃ t', runEvents (jts.map loopOf) t = .next t' ∧ Alike s' t'

/-- 30_encoding.md section 7 (spec decision D17): `cmd <w>` is LOOP with that one command and no frame, `poll ...` LOOP with no
command, `iter ...` LOOP with its commands in order, the frame of the last two being the ID and bytes written; more than 8
bytes are no frame, and the line stands for nothing (log entry 32). In RUN a `cmd` line requests one frame and publishes
nothing. -/
def Obligations.TraceLinesAreIterations : Prop :=
  ∀ (p : Params) (w : WordForm) (ws : List WordForm) (id : Id) (bs : List ByteForm),
    let data : List Byte := bs.flatMap (ByteForm.bytes p)
    (Line.cmd w).instr p = some (.loop [w.bits p] none) ∧
    (Line.poll .none).instr p = some (.loop [] none) ∧
    (Line.iter ws .none).instr p = some (.loop (ws.map (WordForm.bits p)) none) ∧
    (∀ h : data.length ≤ 8,
      (Line.poll (.frame id bs)).instr p = some (.loop [] (some ⟨id, ⟨data, h⟩⟩)) ∧
      (Line.iter ws (.frame id bs)).instr p = some (.loop (ws.map (WordForm.bits p)) (some ⟨id, ⟨data, h⟩⟩))) ∧
    (8 < data.length → (Line.poll (.frame id bs)).instr p = none ∧ (Line.iter ws (.frame id bs)).instr p = none) ∧
    ∀ s : State, s.mode = .run → ∃ i t, (Line.cmd w).instr Config.params = some i ∧ exec i s = .next t ∧
      t.out = s.out ++ [.tx (txFrame Config.params (w.bits Config.params))]
end

