-- ==== Sys2Proof/Laws/Operands.lean ====
section
/-! SUPPORT. The buffer primitives (00_scope.md R8), and what the assembled buffers hold. -/

namespace Sys2Proof

theorem Bytes.ext_list {n : Nat} {a b : Bytes n} (h : a.list = b.list) : a = b := by
  cases a; cases b; cases h; rfl

theorem Payload.ext_bytes {a b : Payload} (h : a.bytes = b.bytes) : a = b := by
  cases a; cases b; cases h; rfl

/-- A sequence of four bytes is its four bytes. -/
theorem Bytes.exists_four (b : Bytes 4) : ∃ b0 b1 b2 b3, b = ⟨[b0, b1, b2, b3], rfl⟩ := by
  obtain ⟨l, h⟩ := b
  match l, h with
  | [b0, b1, b2, b3], _ => exact ⟨b0, b1, b2, b3, rfl⟩

namespace Machine

/-- Reading what was just written gives it back. -/
theorem memRead_memWrite {N n : Nat} (buf : Bytes N) (off : Nat) (v : Bytes n) (h : off + n ≤ N) :
    memRead (memWrite buf off v h) off n h = v := by
  apply Bytes.ext_list
  have hl : (buf.list.take off).length = off := by rw [List.length_take, buf.len]; omega
  have hv := v.len
  simp only [memRead, memWrite, List.append_assoc]
  rw [List.drop_append_of_le_length (by omega), List.drop_eq_nil_of_le (by omega), List.nil_append,
    List.take_append_of_le_length (by omega), List.take_of_length_le (by omega)]

/-- A write leaves the bytes before it alone. -/
theorem memRead_memWrite_before {N n m : Nat} (buf : Bytes N) (off off' : Nat) (v : Bytes n) (h : off + n ≤ N)
    (h' : off' + m ≤ off) :
    memRead (memWrite buf off v h) off' m (by omega) = memRead buf off' m (by omega) := by
  apply Bytes.ext_list
  have hl : (buf.list.take off).length = off := by rw [List.length_take, buf.len]; omega
  simp only [memRead, memWrite, List.append_assoc]
  rw [List.drop_append_of_le_length (by omega), List.take_append_of_le_length (by rw [List.length_drop]; omega),
    List.drop_take, List.take_take, min_eq_left (by omega)]

theorem f32enc_list (p : Bits32) :
    (f32enc p).list = [p.extractLsb' 0 8, p.extractLsb' 8 8, p.extractLsb' 16 8, p.extractLsb' 24 8] := rfl

theorem f32dec_mk (a b c d : Byte) : f32dec ⟨[a, b, c, d], rfl⟩ = d ++ c ++ b ++ a := rfl

/-- The outbound payload is the constant's encoding, then the command's (R68). -/
theorem txPay_list (p : Params) (v : Bits32) : (txPay p v).list = (f32enc p.kBits).list ++ (f32enc v).list := rfl

theorem txFrame_bytes (p : Params) (v : Bits32) : (txFrame p v).data.bytes = (f32enc p.kBits).list ++ (f32enc v).list :=
  rfl

/-- A full payload fills the receive buffer and needs no draw (R122). -/
theorem rxBuffer_full (data : Payload) (n : Nat) (h : data.bytes.length = 8) : (rxBuffer data n).list = data.bytes := by
  simp [rxBuffer, missingBytes, h]

theorem missingBytes_full (data : Payload) (h : data.bytes.length = 8) : missingBytes data = 0 := by
  simp [missingBytes, h]

/-- Each byte of the receive buffer is the frame's, or the draw made for it (R123). -/
theorem rxBuffer_getElem (data : Payload) (n i : Nat) (hi : i < 8) :
    (rxBuffer data n).list[i]'(by rw [(rxBuffer data n).len]; exact hi) =
      if h : i < data.bytes.length then data.bytes[i] else Config.draw (n + (i - data.bytes.length)) := by
  simp only [rxBuffer, List.getElem_append, List.getElem_map, List.getElem_range]

/-- The odometry float is made of bytes 7, 6, 5, 4 of the receive buffer (R68, R122). -/
theorem odomField_eq (data : Payload) (n : Nat) :
    odomField data n = (rxBuffer data n).get 7 ++ (rxBuffer data n).get 6 ++ (rxBuffer data n).get 5 ++
      (rxBuffer data n).get 4 := by
  simp [odomField, f32dec, memRead, Bytes.get]

end Machine

end Sys2Proof
end

