-- ==== Sys2Proof/Laws/State.lean ====
section
/-! SUPPORT. What each field holds after each update of the state, so that no proof unfolds a record update. -/

namespace Sys2Proof.Machine

variable (s : State)

@[simp] theorem State.setMode_mode (m : Mode) : (s.setMode m).mode = m := rfl
@[simp] theorem State.setMode_msg (m : Mode) : (s.setMode m).msg = s.msg := rfl
@[simp] theorem State.setMode_stimuli (m : Mode) : (s.setMode m).stimuli = s.stimuli := rfl
@[simp] theorem State.setMode_out (m : Mode) : (s.setMode m).out = s.out := rfl
@[simp] theorem State.setMode_ports (m : Mode) : (s.setMode m).ports = s.ports := rfl
@[simp] theorem State.setMode_taken (m : Mode) : (s.setMode m).taken = s.taken := rfl
@[simp] theorem State.setMode_draws (m : Mode) : (s.setMode m).draws = s.draws := rfl

@[simp] theorem State.setX_mode (w : Bits32) : (s.setX w).mode = s.mode := rfl
@[simp] theorem State.setX_msg (w : Bits32) : (s.setX w).msg = { s.msg with x := w } := rfl
@[simp] theorem State.setX_stimuli (w : Bits32) : (s.setX w).stimuli = s.stimuli := rfl
@[simp] theorem State.setX_out (w : Bits32) : (s.setX w).out = s.out := rfl
@[simp] theorem State.setX_ports (w : Bits32) : (s.setX w).ports = s.ports := rfl
@[simp] theorem State.setX_taken (w : Bits32) : (s.setX w).taken = s.taken := rfl
@[simp] theorem State.setX_draws (w : Bits32) : (s.setX w).draws = s.draws := rfl

@[simp] theorem State.clearMsg_mode (p : Params) : (s.clearMsg p).mode = s.mode := rfl
@[simp] theorem State.clearMsg_msg (p : Params) : (s.clearMsg p).msg = Msg.default p := rfl
@[simp] theorem State.clearMsg_stimuli (p : Params) : (s.clearMsg p).stimuli = s.stimuli := rfl
@[simp] theorem State.clearMsg_out (p : Params) : (s.clearMsg p).out = s.out := rfl
@[simp] theorem State.clearMsg_ports (p : Params) : (s.clearMsg p).ports = s.ports := rfl
@[simp] theorem State.clearMsg_taken (p : Params) : (s.clearMsg p).taken = s.taken := rfl
@[simp] theorem State.clearMsg_draws (p : Params) : (s.clearMsg p).draws = s.draws := rfl

@[simp] theorem State.emit_mode (o : Out) : (s.emit o).mode = s.mode := rfl
@[simp] theorem State.emit_msg (o : Out) : (s.emit o).msg = s.msg := rfl
@[simp] theorem State.emit_stimuli (o : Out) : (s.emit o).stimuli = s.stimuli := rfl
@[simp] theorem State.emit_out (o : Out) : (s.emit o).out = s.out ++ [o] := rfl
@[simp] theorem State.emit_ports (o : Out) : (s.emit o).ports = s.ports := rfl
@[simp] theorem State.emit_taken (o : Out) : (s.emit o).taken = s.taken := rfl
@[simp] theorem State.emit_draws (o : Out) : (s.emit o).draws = s.draws := rfl

@[simp] theorem State.emitTx_mode (f : Frame) : (s.emitTx f).mode = s.mode := rfl
@[simp] theorem State.emitTx_msg (f : Frame) : (s.emitTx f).msg = s.msg := rfl
@[simp] theorem State.emitTx_stimuli (f : Frame) : (s.emitTx f).stimuli = s.stimuli := rfl
@[simp] theorem State.emitTx_out (f : Frame) : (s.emitTx f).out = s.out ++ [.tx f] := rfl
@[simp] theorem State.emitTx_ports (f : Frame) : (s.emitTx f).ports = s.ports := rfl
@[simp] theorem State.emitTx_taken (f : Frame) : (s.emitTx f).taken = s.taken := rfl
@[simp] theorem State.emitTx_draws (f : Frame) : (s.emitTx f).draws = s.draws := rfl

@[simp] theorem State.emitPub_mode : (s.emitPub).mode = s.mode := rfl
@[simp] theorem State.emitPub_msg : (s.emitPub).msg = s.msg := rfl
@[simp] theorem State.emitPub_stimuli : (s.emitPub).stimuli = s.stimuli := rfl
@[simp] theorem State.emitPub_out : (s.emitPub).out = s.out ++ [.pub s.msg] := rfl
@[simp] theorem State.emitPub_ports : (s.emitPub).ports = s.ports := rfl
@[simp] theorem State.emitPub_taken : (s.emitPub).taken = s.taken := rfl
@[simp] theorem State.emitPub_draws : (s.emitPub).draws = s.draws := rfl

@[simp] theorem State.answer_mode (r : PortResult) : (s.answer r).mode = s.mode := rfl
@[simp] theorem State.answer_msg (r : PortResult) : (s.answer r).msg = s.msg := rfl
@[simp] theorem State.answer_stimuli (r : PortResult) : (s.answer r).stimuli = s.stimuli := rfl
@[simp] theorem State.answer_out (r : PortResult) : (s.answer r).out = s.out := rfl
@[simp] theorem State.answer_ports (r : PortResult) : (s.answer r).ports = s.ports ++ [r] := rfl
@[simp] theorem State.answer_taken (r : PortResult) : (s.answer r).taken = s.taken := rfl
@[simp] theorem State.answer_draws (r : PortResult) : (s.answer r).draws = s.draws := rfl

@[simp] theorem State.take_mode (i : Input) : (s.take i).mode = s.mode := rfl
@[simp] theorem State.take_msg (i : Input) : (s.take i).msg = s.msg := rfl
@[simp] theorem State.take_stimuli (i : Input) : (s.take i).stimuli = s.stimuli := rfl
@[simp] theorem State.take_out (i : Input) : (s.take i).out = s.out := rfl
@[simp] theorem State.take_ports (i : Input) : (s.take i).ports = s.ports := rfl
@[simp] theorem State.take_taken (i : Input) : (s.take i).taken = s.taken ++ [i] := rfl
@[simp] theorem State.take_draws (i : Input) : (s.take i).draws = s.draws := rfl

@[simp] theorem State.countDraws_mode (k : Nat) : (s.countDraws k).mode = s.mode := rfl
@[simp] theorem State.countDraws_msg (k : Nat) : (s.countDraws k).msg = s.msg := rfl
@[simp] theorem State.countDraws_stimuli (k : Nat) : (s.countDraws k).stimuli = s.stimuli := rfl
@[simp] theorem State.countDraws_out (k : Nat) : (s.countDraws k).out = s.out := rfl
@[simp] theorem State.countDraws_ports (k : Nat) : (s.countDraws k).ports = s.ports := rfl
@[simp] theorem State.countDraws_taken (k : Nat) : (s.countDraws k).taken = s.taken := rfl
@[simp] theorem State.countDraws_draws (k : Nat) : (s.countDraws k).draws = s.draws + k := rfl

@[simp] theorem raiseFatal_eq (c : FatalCause) : raiseFatal c s = { s with mode := .halt } := rfl

@[simp] theorem resetBlock_eq (p : Params) : resetBlock p s = { s with mode := .init, msg := Msg.default p } := rfl

/-- `FATAL` is 1 exactly when `MODE` = HALT (R24). -/
theorem State.fatal_iff : s.fatal = true ↔ s.mode = .halt := by simp [State.fatal]

end Sys2Proof.Machine
end

