-- ==== Sys2Proof/Laws/Ops.lean ====
section
/-! SUPPORT. For each shared operation, everything it can do; for `exec` and `step`, the one inversion that says what a next
state can be. -/

namespace Sys2Proof.Machine

variable {s t : State}

@[simp] theorem duringLoop_run (act : State → State) (h : s.mode = .run) : duringLoop act s = .next (act s) := by
  simp [duringLoop, h]

@[simp] theorem duringLoop_halt (act : State → State) (h : s.mode = .halt) : duringLoop act s = .next s := by
  simp [duringLoop, h]

@[simp] theorem duringLoop_init (act : State → State) (h : s.mode = .init) :
    duringLoop act s = .refused .loopNotStarted := by
  simp [duringLoop, h]

/-- A loop operation answers a next state only in RUN, with its effect, or in HALT, with none. -/
theorem duringLoop_next {act : State → State} (h : duringLoop act s = .next t) :
    (s.mode = .run ∧ t = act s) ∨ (s.mode = .halt ∧ t = s) := by
  cases hm : s.mode <;> simp_all [duringLoop]

/-- INIT answers a next state only in mode INIT. -/
theorem reportStartup_next {ok : Bool} (h : reportStartup ok s = .next t) :
    s.mode = .init ∧ t = { s with mode := if ok then .run else .halt } := by
  cases hm : s.mode <;> cases ok <;> simp_all [reportStartup, State.setMode]

theorem txCmd_eq (p : Params) (v : Bits32) (s : State) :
    txCmd p v s = { s with out := s.out ++ [.tx (txFrame p v)], taken := s.taken ++ [.cmd v] } := rfl

/-- Phase (a) requests one frame per command, in order, and touches nothing else. -/
theorem txCmds_eq (p : Params) (vs : List Bits32) (s : State) :
    txCmds p vs s =
      { s with out := s.out ++ vs.map (fun v => .tx (txFrame p v)), taken := s.taken ++ vs.map .cmd } := by
  induction vs generalizing s with
  | nil => simp [txCmds]
  | cons v vs ih => simp [txCmds, ih, txCmd_eq]

theorem rxNone_eq (s : State) : rxNone s = s := rfl

theorem rxOdom_eq (p : Params) (data : Payload) (s : State) :
    rxOdom p data s =
      { s with msg := { s.msg with x := odomField data s.draws },
               out := s.out ++ [.pub { s.msg with x := odomField data s.draws }],
               taken := s.taken ++ [.frame ⟨p.odomId, data⟩], draws := s.draws + missingBytes data } := rfl

theorem rxOther_eq (f : Frame) (s : State) :
    rxOther f s = { s with out := s.out ++ [.pub s.msg], taken := s.taken ++ [.frame f] } := rfl

@[simp] theorem rxPoll_none (p : Params) (s : State) : rxPoll p none s = s := rfl

theorem rxPoll_odom (p : Params) (f : Frame) (s : State) (h : f.id = p.odomId) :
    rxPoll p (some f) s = rxOdom p f.data s := by
  simp [rxPoll, isOdometryId, h]

theorem rxPoll_other (p : Params) (f : Frame) (s : State) (h : f.id ≠ p.odomId) :
    rxPoll p (some f) s = rxOther f s := by
  simp [rxPoll, isOdometryId, h]

/-- What a loop instruction does in RUN. -/
def loopEffect (p : Params) : Instr → State → State
  | .txcmd v, s => txCmd p v s
  | .rxpoll rx, s => rxPoll p rx s
  | .rxNone, s => rxNone s
  | .rxOdom data, s => rxOdom p data s
  | .rxOther f, s => rxOther f s
  | .loop cmds rx, s => loopIteration p cmds rx s
  | .f32enc _, s => s
  | .f32dec _, s => s
  | .init _, s => s
  | .reset, s => s
  | .reserved, s => s

/-- Every loop instruction runs under the loop's mode rule. -/
theorem exec_loopInstr {i : Instr} (h : loopInstr i = true) (s : State) :
    exec i s = duringLoop (loopEffect Config.params i) s := by
  cases i <;> first | rfl | simp [loopInstr] at h

/-- Everything `exec` can do when it answers a next state. -/
theorem exec_next_cases {i : Instr} (h : exec i s = .next t) :
    (loopInstr i = true ∧ s.mode = .run ∧ t = loopEffect Config.params i s) ∨
    (loopInstr i = true ∧ s.mode = .halt ∧ t = s) ∨
    (∃ p, i = .f32enc p ∧ t = s.answer (.enc (f32enc p))) ∨
    (∃ b, i = .f32dec b ∧ t = s.answer (.dec (f32dec b))) ∨
    (∃ ok, i = .init ok ∧ s.mode = .init ∧ t = { s with mode := if ok then .run else .halt }) ∨
    (i = .reset ∧ t = { s with mode := .init, msg := Msg.default Config.params }) := by
  by_cases hl : loopInstr i = true
  · rw [exec_loopInstr hl] at h
    rcases duringLoop_next h with ⟨hm, ht⟩ | ⟨hm, ht⟩
    · exact .inl ⟨hl, hm, ht⟩
    · exact .inr (.inl ⟨hl, hm, ht⟩)
  · cases i with
    | f32enc p => exact .inr (.inr (.inl ⟨p, rfl, by cases h; rfl⟩))
    | f32dec b => exact .inr (.inr (.inr (.inl ⟨b, rfl, by cases h; rfl⟩)))
    | init ok => exact .inr (.inr (.inr (.inr (.inl ⟨ok, rfl, reportStartup_next h⟩))))
    | reset => exact .inr (.inr (.inr (.inr (.inr ⟨rfl, by cases h; rfl⟩))))
    | reserved => cases h
    | txcmd v => exact absurd rfl hl
    | rxpoll rx => exact absurd rfl hl
    | rxNone => exact absurd rfl hl
    | rxOdom data => exact absurd rfl hl
    | rxOther f => exact absurd rfl hl
    | loop cmds rx => exact absurd rfl hl

/-- No instruction touches the trace. -/
theorem exec_stimuli {i : Instr} (h : exec i s = .next t) : t.stimuli = s.stimuli := by
  rcases exec_next_cases h with ⟨-, -, rfl⟩ | ⟨-, -, rfl⟩ | ⟨_, -, rfl⟩ | ⟨_, -, rfl⟩ | ⟨_, -, -, rfl⟩ | ⟨-, rfl⟩ <;>
    try rfl
  have poll : ∀ (rx : Option Frame) (u : State), (rxPoll Config.params rx u).stimuli = u.stimuli := by
    intro rx u
    cases rx with
    | none => rfl
    | some f =>
      by_cases hf : f.id = Config.params.odomId
      · rw [rxPoll_odom _ _ _ hf, rxOdom_eq]
      · rw [rxPoll_other _ _ _ hf, rxOther_eq]
  cases i <;> first | rfl | exact poll _ _ | (simp only [loopEffect, loopIteration, poll, txCmds_eq])

/-- Everything a step can do when it answers a next state: wait, iterate with nothing offered, or run the next stimulus. -/
theorem step_next_cases (h : step s = .next t) :
    (s.stimuli = [] ∧ s.mode = .init ∧ t = s) ∨
    (s.stimuli = [] ∧ s.mode ≠ .init ∧ exec (.loop [] none) s = .next t) ∨
    (∃ st rest i, s.stimuli = st :: rest ∧ decode st = .ok i ∧ exec i { s with stimuli := rest } = .next t) := by
  unfold step fetch at h
  cases hs : s.stimuli with
  | nil =>
    by_cases hm : s.mode = .init
    · simp only [hs, hm, if_true] at h
      exact .inl ⟨rfl, hm, by cases h; rfl⟩
    · simp only [hs, hm, if_false] at h
      exact .inr (.inl ⟨rfl, hm, h⟩)
  | cons st rest =>
    simp only [hs] at h
    cases hd : decode st with
    | ok i => rw [hd] at h; exact .inr (.inr ⟨st, rest, i, rfl, hd, h⟩)
    | error e => rw [hd] at h; cases h

end Sys2Proof.Machine
end

