-- ==== Sys2Proof/Laws/Words.lean ====
section
/-! SUPPORT. The bits of a poll word (30_encoding.md R69) and of the two bytes that carry it, and the two ways the list of
LOOP's commands goes on. -/

namespace Sys2Proof

theorem wordOf_getLsbD (lo hi : Byte) (k : Nat) :
    (wordOf lo hi).getLsbD k = if k < 8 then lo.getLsbD k else hi.getLsbD (k - 8) := by
  unfold wordOf
  rw [BitVec.getLsbD_append]

/-- A word's two bytes, put together again. -/
theorem wordOf_bytes (w : BitVec 16) : wordOf (w.extractLsb' 0 8) (w.extractLsb' 8 8) = w := by
  apply BitVec.eq_of_getLsbD_eq
  intro k hk
  rw [wordOf_getLsbD]
  split
  · next h => simp [h]
  · next h => rw [BitVec.getLsbD_extractLsb', decide_eq_true (by omega : k - 8 < 8), Bool.true_and]; congr 1; omega

/-- A poll word has the frame's ID in bits 10:0 and `avail` in bit 11. -/
theorem pollWord_getLsbD (id : Id) (k : Nat) : (pollWord id).getLsbD k = (decide (k = 11) || id.getLsbD k) := by
  by_cases hk : k < 16
  · unfold pollWord
    rw [BitVec.getLsbD_or, BitVec.getLsbD_setWidth, decide_eq_true hk, Bool.true_and]
    congr 1
    interval_cases k <;> decide
  · rw [BitVec.getLsbD_of_ge _ _ (by omega), BitVec.getLsbD_of_ge _ _ (by omega)]
    simp; omega

/-- Masking a poll word by `avail` leaves bit 11, which a frame sets. -/
theorem pollWord_avail (id : Id) : pollWord id &&& 0x800#16 = 0x800#16 := by
  ext k hk
  rw [BitVec.getElem_and]
  interval_cases k <;> simp [pollWord]

/-- A poll word is the row of RX.ODOM only when the frame's ID is 0x403. -/
theorem pollWord_odom (id : Id) (h : pollWord id &&& 0xFFF#16 = 0xC03#16) : id = 0x403#11 := by
  ext k hk
  have hb := congrArg (fun w : BitVec 16 => w.getLsbD k) h
  simp only [pollWord, BitVec.getLsbD_and, BitVec.getLsbD_or, BitVec.getLsbD_setWidth] at hb
  rw [← BitVec.getLsbD_eq_getElem, ← BitVec.getLsbD_eq_getElem]
  interval_cases k <;> simpa using hb

/-- A byte 0 ends the commands. -/
theorem takeCmds_end (tl : List Byte) : takeCmds (0 :: tl) = .ok ([], tl) := by
  unfold takeCmds; simp

/-- A byte 1 announces one more command. -/
theorem takeCmds_more (a b c d : Byte) (rest : List Byte) :
    takeCmds (1 :: a :: b :: c :: d :: rest) =
      match takeCmds rest with
      | .ok (vs, rest') => .ok (Machine.f32dec ⟨[a, b, c, d], rfl⟩ :: vs, rest')
      | .error e => .error e := by
  conv_lhs => unfold takeCmds
  simp only [if_neg (by decide : ¬(1 : Byte) = 0), if_true]
  all_goals cases takeCmds rest <;> rfl

/-- What ends a reading: zero bytes, any number of them. -/
theorem finish_zeros {α : Type} (f : α → Instr) (x : α) (n : Nat) :
    finish f (.ok (x, List.replicate n 0)) = .ok (f x) := by
  simp [finish]

end Sys2Proof
end

