-- ==== Sys2Proof/Laws/PerInstr.lean ====
section
/-! SUPPORT. Family `TableRow`: the selector of every well-formed instruction's encoding is matched first by the
instruction's own row of spec/opcode_table.json (30_encoding.md R69). -/

namespace Sys2Proof.Laws.TableRow

/-- The row the table finds first for the encoding's selector word is the instruction's own. -/
def Statement (i : Instr) : Prop :=
  i.wf = true → (selectorWord (encode i)).bind (tableMnemonic (encode i).format) = some i.mnemonic

theorem f32enc (p : Bits32) : Statement (.f32enc p) := fun _ => by
  simp only [encode, selectorWord, Option.bind_some, Instr.mnemonic]; decide

theorem f32dec (b : Bytes 4) : Statement (.f32dec b) := fun _ => by
  simp only [encode, selectorWord, Option.bind_some, Instr.mnemonic]; decide

theorem txcmd (v : Bits32) : Statement (.txcmd v) := fun _ => by
  simp only [encode, selectorWord, Option.bind_some, Instr.mnemonic]; decide

theorem rxpoll (rx : Option Frame) : Statement (.rxpoll rx) := fun _ => by
  simp only [encode, selectorWord, Option.bind_some, Instr.mnemonic]; decide

theorem rxNone : Statement .rxNone := fun _ => by decide

theorem rxOdom (data : Payload) : Statement (.rxOdom data) := fun _ => by
  simp only [encode, encodeRx, selectorWord, Option.bind_some, Instr.mnemonic]; decide

theorem rxOther (f : Frame) : Statement (.rxOther f) := fun hwf => by
  have hid : f.id ≠ 0x403#11 := by simpa [Instr.wf, Config.params] using hwf
  have h2 : ((pollWord f.id &&& 0xFFF#16) == 0xC03#16) = false := by
    simpa using fun h => hid (pollWord_odom _ h)
  have h3 := pollWord_avail f.id
  simp only [encode, encodeRx, selectorWord, Option.bind_some, Instr.mnemonic, tableMnemonic]
  rw [wordOf_bytes]
  simp [opcodeTable, h2, h3]

theorem init (canOk : Bool) : Statement (.init canOk) := fun _ => by
  simp only [encode, selectorWord, Option.bind_some, Instr.mnemonic]; decide

theorem loop (cmds : List Bits32) (rx : Option Frame) : Statement (.loop cmds rx) := fun _ => by
  simp only [encode, selectorWord, Option.bind_some, Instr.mnemonic]; decide

theorem reset : Statement .reset := fun _ => by decide

theorem reserved : Statement .reserved := fun _ => by decide

end Sys2Proof.Laws.TableRow
end

