-- ==== Sys2Proof/Laws/Safety.lean ====
section
/-! SUPPORT. What `pollsOdometry` says: which instructions it holds of, and that the others leave the record as it is. -/

namespace Sys2Proof.Safety

open Sys2Proof.Machine

theorem pollsOdometry_iff (p : Params) (i : Instr) :
    pollsOdometry p i = true ↔
      (∃ data, i = .rxOdom data) ∨ (∃ f, i = .rxpoll (some f) ∧ f.id = p.odomId) ∨
        (∃ cmds f, i = .loop cmds (some f) ∧ f.id = p.odomId) := by
  cases i with
  | rxpoll rx => cases rx <;> simp [pollsOdometry, isOdometryId]
  | loop cmds rx => cases rx <;> simp [pollsOdometry, isOdometryId]
  | _ => simp [pollsOdometry]

/-- A loop instruction that polls no odometry frame leaves the record as it is. -/
theorem loopEffect_msg {p : Params} {i : Instr} (h : pollsOdometry p i = false) (s : State) :
    (loopEffect p i s).msg = s.msg := by
  have poll : ∀ (f : Frame) (u : State), isOdometryId p f.id = false → (rxPoll p (some f) u).msg = u.msg := by
    intro f u hf
    rw [rxPoll_other p f u (by simpa [isOdometryId] using hf), rxOther_eq]
  cases i with
  | rxpoll rx => cases rx with
    | none => rfl
    | some f => exact poll f s h
  | loop cmds rx =>
    simp only [loopEffect, loopIteration, txCmds_eq]
    cases rx with
    | none => rfl
    | some f => exact poll f _ h
  | rxOdom data => cases h
  | _ => rfl

end Sys2Proof.Safety
end

