-- ==== Sys2Proof/Tests/Slice0.lean ====
section
/-! SUPPORT. Tests. Expected values are the spec's: 95_test_vectors.md sections 1 and 3 and the examples of the rules. The
`test_witness_` theorems show states and operands that meet the hypotheses of the statement they name. -/

namespace Sys2Proof.Tests

open Sys2Proof.Machine Sys2Proof.Safety

/-- A payload of at most 8 bytes. -/
def pay (bs : List Byte) (h : bs.length ≤ 8 := by decide) : Payload := ⟨bs, h⟩

/-- A state in mode `m` whose record is (12.0, 0, 0). -/
def inMode (m : Mode) : State := { State.reset with mode := m, msg := ⟨0x41400000, 0, 0⟩ }

def outOf (a : Answer) : Option (List Out) := (next? a).map State.out

def msgOf (a : Answer) : Option Msg := (next? a).map State.msg

def modeOf (a : Answer) : Option Mode := (next? a).map State.mode

/-! ### Well-formedness -/

/-- R69: a frame with ID 0x403 is no operand of RX.OTHER. -/
theorem test_wf_other_refuses_odometry_id : (Instr.rxOther ⟨0x403, pay []⟩).wf = false := by decide

/-- R43: the block's own ID is an "other" ID. -/
theorem test_wf_other_takes_command_id : (Instr.rxOther ⟨0x501, pay []⟩).wf = true := by decide

/-! ### Decoding: one word per constructor, from R69's selectors and the operand layout of Decode.lean -/

theorem test_decode_f32enc :
    decode ⟨.stim, [0b00000000, 0x9A, 0x99, 0x59, 0x3F]⟩ = .ok (.f32enc 0x3F59999A) := by decide

theorem test_decode_f32dec :
    decode ⟨.stim, [0b00000001, 0x00, 0x00, 0x40, 0x41]⟩ = .ok (.f32dec ⟨[0x00, 0x00, 0x40, 0x41], rfl⟩) := by decide

theorem test_decode_txcmd :
    decode ⟨.stim, [0b00000010, 0x00, 0x00, 0x20, 0x40]⟩ = .ok (.txcmd 0x40200000) := by decide

theorem test_decode_rxpoll :
    decode ⟨.stim, [0b00000011, 0b00100011, 0b00001001, 2, 0xDE, 0xAD]⟩ =
      .ok (.rxpoll (some ⟨0b00100100011, pay [0xDE, 0xAD]⟩)) := by decide

/-- R69: the ID bits are don't-care when `avail` is 0. -/
theorem test_decode_rxNone : decode ⟨.rxsel, [0b11111111, 0b00000111]⟩ = .ok .rxNone := by decide

/-- P2's word 0xC03. -/
theorem test_decode_rxOdom :
    decode ⟨.rxsel, [0b00000011, 0b00001100, 8, 0x11, 0x22, 0x33, 0x44, 0x00, 0x00, 0x40, 0x41]⟩ =
      .ok (.rxOdom (pay [0x11, 0x22, 0x33, 0x44, 0x00, 0x00, 0x40, 0x41])) := by decide

/-- P2's word 0xD01: the block's own command frame. -/
theorem test_decode_rxOther :
    decode ⟨.rxsel, [0b00000001, 0b00001101, 1, 0x9A]⟩ = .ok (.rxOther ⟨0x501, pay [0x9A]⟩) := by decide

theorem test_decode_init : decode ⟨.stim, [0b00000100, 1]⟩ = .ok (.init true) := by decide

theorem test_decode_loop :
    decode ⟨.stim, [0b00000101, 1, 0x00, 0x00, 0x80, 0x3F, 1, 0x00, 0x00, 0x00, 0x80, 0, 0b00000010, 0b00001100, 0]⟩ =
      .ok (.loop [0x3F800000, 0x80000000] (some ⟨0x402, pay []⟩)) := by decide

theorem test_decode_reset : decode ⟨.stim, [0b00000110]⟩ = .ok .reset := by decide

theorem test_decode_reserved : decode ⟨.stim, [0b00000111]⟩ = .ok .reserved := by decide

/-- Every name the decoder refuses by. -/
theorem test_decode_refuses :
    decode ⟨.stim, []⟩ = .error .truncated ∧ decode ⟨.stim, [0x02, 0, 0]⟩ = .error .truncated ∧
    decode ⟨.stim, [0x08]⟩ = .error .paddingBits ∧ decode ⟨.stim, [0x04, 2]⟩ = .error .notABit ∧
    decode ⟨.stim, [0x05, 2]⟩ = .error .commandMarker ∧ decode ⟨.rxsel, [0x03, 0x1C, 0]⟩ = .error .extendedFrame ∧
    decode ⟨.rxsel, [0x03, 0x2C, 0]⟩ = .error .remoteFrame ∧ decode ⟨.rxsel, [0x03, 0x4C, 0]⟩ = .error .paddingBits ∧
    decode ⟨.rxsel, [0x03, 0x0C, 9]⟩ = .error .payloadTooLong ∧
    decode ⟨.stim, [0x06, 1]⟩ = .error .trailingBytes := by decide

/-- The `STIM` rows of the opcode table do not overlap (R69). -/
theorem test_stim_rows_disjoint :
    (opcodeTable.filter (fun r => r.format == .stim)).Pairwise
      (fun a b => a.value &&& (a.mask &&& b.mask) ≠ b.value &&& (a.mask &&& b.mask)) := by decide

/-! ### The coder -/

/-- 95_test_vectors.md section 3.1: the two byte-order witnesses, the constant, and NaN patterns kept. -/
theorem test_f32enc_vectors :
    (f32enc 0x04030201).list = [1, 2, 3, 4] ∧ (f32enc 0x3F59999A).list = [0x9A, 0x99, 0x59, 0x3F] ∧
    (f32enc 0x80000000).list = [0, 0, 0, 0x80] ∧ (f32enc 0xFFC12345).list = [0x45, 0x23, 0xC1, 0xFF] := by decide

/-- In HALT too the port answers (R94). -/
theorem test_f32enc_in_halt :
    (next? (exec (.f32enc 0xDEADBEEF) (inMode .halt))).map State.ports =
      some [.enc ⟨[0xEF, 0xBE, 0xAD, 0xDE], rfl⟩] := by decide

/-- 95_test_vectors.md section 3.1: 12.0, a signalling NaN not quieted, the least subnormal not flushed. -/
theorem test_f32dec_vectors :
    f32dec ⟨[0x00, 0x00, 0x40, 0x41], rfl⟩ = 0x41400000 ∧ f32dec ⟨[0x01, 0x00, 0x80, 0x7F], rfl⟩ = 0x7F800001 ∧
    f32dec ⟨[0x01, 0x00, 0x00, 0x00], rfl⟩ = 0x00000001 ∧ f32dec ⟨[4, 3, 2, 1], rfl⟩ = 0x01020304 := by decide

/-- R62's classes of the named patterns of section 3.1. -/
theorem test_f32_classes :
    f32Class 0x80000000 = .zero ∧ f32Class 0x007FFFFF = .subnormal ∧ f32Class 0x7F7FFFFF = .normal ∧
    f32Class 0xFF800000 = .infinity ∧ f32Class 0x7FC00000 = .quietNaN ∧ f32Class 0x7FA00000 = .signallingNaN := by decide

/-! ### TXCMD (95_test_vectors.md section 3.2) -/

theorem test_txcmd_frame :
    outOf (exec (.txcmd 0x40200000) (inMode .run)) =
      some [.tx ⟨0x501, pay [0x9A, 0x99, 0x59, 0x3F, 0x00, 0x00, 0x20, 0x40]⟩] := by decide

/-- With `K_BITS` = 0x3F800000 the same command gives `00 00 80 3F 00 00 20 40`. -/
theorem test_txcmd_other_constant :
    (txFrame { Config.params with kBits := 0x3F800000 } 0x40200000).data.bytes =
      [0x00, 0x00, 0x80, 0x3F, 0x00, 0x00, 0x20, 0x40] := by decide

/-! ### RXPOLL and its sub-cases (95_test_vectors.md section 3.3) -/

/-- Offsets and order of the decoded field. -/
theorem test_rxpoll_field :
    outOf (exec (.rxpoll (some ⟨0x403, pay [0, 1, 2, 3, 4, 5, 6, 7]⟩)) (inMode .run)) =
      some [.pub ⟨0x07060504, 0, 0⟩] := by decide

/-- IDs one bit from 0x403 are not decoded, and still published on. -/
theorem test_rxpoll_near_ids :
    outOf (exec (.rxpoll (some ⟨0x402, pay [0, 0, 0, 0, 0, 0, 0, 1]⟩)) (inMode .run)) = some [.pub ⟨0x41400000, 0, 0⟩] ∧
    msgOf (exec (.rxpoll (some ⟨0x003, pay [0, 0, 0, 0, 0, 0, 0, 1]⟩)) (inMode .run)) = some ⟨0x41400000, 0, 0⟩ := by
  decide

theorem test_rxNone_silent : exec .rxNone (inMode .run) = .next (inMode .run) := rfl

/-- A float at offset 0 is not read. -/
theorem test_rxOdom_offset :
    msgOf (exec (.rxOdom (pay [0x00, 0x00, 0x40, 0x41, 0, 0, 0, 0])) (inMode .run)) = some ⟨0, 0, 0⟩ := by decide

/-- `len` = 7: the low three bytes are the frame's, the top byte is a draw. -/
theorem test_rxOdom_seven_bytes (n : Nat) :
    odomField (pay [0, 0, 0, 0, 0x00, 0x00, 0x40]) n = Config.draw (n + 0) ++ 0x40#8 ++ 0x00#8 ++ 0x00#8 := rfl

/-- An empty frame of another ID still publishes. -/
theorem test_rxOther_empty :
    outOf (exec (.rxOther ⟨0x123, pay []⟩) (inMode .run)) = some [.pub ⟨0x41400000, 0, 0⟩] := by decide

/-! ### INIT, LOOP, RESET, reserved (95_test_vectors.md section 3.4) -/

theorem test_init_outcomes :
    modeOf (exec (.init true) (inMode .init)) = some .run ∧ modeOf (exec (.init false) (inMode .init)) = some .halt := by
  decide

theorem test_init_refused_later :
    refusal? (exec (.init true) (inMode .run)) = some .startupAlreadyReported ∧
    refusal? (exec (.init false) (inMode .halt)) = some .startupAlreadyReported := by decide

/-- P4: two requests in order, then the publication. -/
theorem test_loop_order :
    outOf (exec (.loop [0x3F800000, 0x80000000]
        (some ⟨0x403, pay [0xFF, 0xFF, 0xFF, 0xFF, 0xDB, 0x0F, 0x49, 0x40]⟩)) (inMode .run)) =
      some [.tx ⟨0x501, pay [0x9A, 0x99, 0x59, 0x3F, 0x00, 0x00, 0x80, 0x3F]⟩,
            .tx ⟨0x501, pay [0x9A, 0x99, 0x59, 0x3F, 0x00, 0x00, 0x00, 0x80]⟩, .pub ⟨0x40490FDB, 0, 0⟩] := by decide

/-- Refused before start-up, without effect in HALT. -/
theorem test_loop_modes :
    refusal? (exec (.loop [0x40200000] none) (inMode .init)) = some .loopNotStarted ∧
    next? (exec (.loop [0x40200000] (some ⟨0x403, pay [0, 0, 0, 0, 0, 0, 0, 1]⟩)) (inMode .halt)) = some (inMode .halt) := by
  decide

theorem test_reset_from_halt :
    modeOf (exec .reset (inMode .halt)) = some .init ∧ msgOf (exec .reset (inMode .halt)) = some ⟨0, 0, 0⟩ := by decide

theorem test_reserved_refused : refusal? (exec .reserved (inMode .run)) = some .reservedSelector := by decide

/-! ### The step and the trace -/

/-- From reset, a table word of the loop is offered with start-up behind it, and runs. -/
theorem test_step_runs_table_word :
    outOf (step (State.reset.withFetchWord 16 0x923)) = some [.pub ⟨0, 0, 0⟩] := by decide

/-- R77: `enc(f32(12.0))` in a byte list of a poll line. -/
theorem test_line_poll :
    (Line.poll (.frame 0x403 [.byte 1, .byte 2, .byte 3, .byte 4, .enc (.f32 .twelve)])).instr Config.params =
      some (.loop [] (some ⟨0x403, pay [1, 2, 3, 4, 0x00, 0x00, 0x40, 0x41]⟩)) := by decide

/-! ### Witnesses: the hypotheses of the statements can be met -/

/-- One state in each mode: TxcmdRequestsTheCommandFrame, NoFrameNoEffect, InitReportsStartup, PollSelectsTheSubcase,
OnlyAFailedStartHalts, HaltIgnoresTheLoop. -/
theorem test_witness_modes :
    (inMode .run).mode = .run ∧ (inMode .init).mode = .init ∧ (inMode .halt).mode = .halt ∧
    (inMode .halt).mode ≠ .run ∧ (inMode .halt).mode ≠ .init := by decide

/-- Outside RUN a loop operation can answer a next state (TxcmdRequestsTheCommandFrame, PollSelectsTheSubcase,
LoopServesCommandsThenPolls). -/
theorem test_witness_no_effect_in_halt :
    exec (.txcmd 1) (inMode .halt) = .next (inMode .halt) ∧ exec (.rxpoll none) (inMode .halt) = .next (inMode .halt) ∧
    exec (.loop [1] none) (inMode .halt) = .next (inMode .halt) := ⟨rfl, rfl, rfl⟩

/-- CommandFrameCarriesTheCommand: two IDs that differ. -/
theorem test_witness_CommandFrameCarriesTheCommand : Config.params.cmdId ≠ Config.params.odomId := by decide

/-- OnlyCommandFramesAreSent: an instruction that sends a frame. -/
theorem test_witness_OnlyCommandFramesAreSent :
    ∃ t, exec (.txcmd 1) (inMode .run) = .next t ∧ Out.tx (txFrame Config.params 1) ∈ t.out :=
  ⟨_, rfl, by decide⟩

/-- PollSelectsTheSubcase, OtherFrameRepublishesTheRecord, IllFormedOtherFrameRepublishesToo: frames on both sides of the ID
test, and a state in RUN. -/
theorem test_witness_PollSelectsTheSubcase :
    (inMode .run).mode = .run ∧ (⟨0x403, pay []⟩ : Frame).id = 0x403 ∧ (⟨0x404, pay []⟩ : Frame).id ≠ 0x403 ∧
    (⟨0x501, pay []⟩ : Frame).id ≠ 0x403 := by decide

/-- FullOdometryFrameIsDecodedAndPublished: eight bytes are a payload. -/
theorem test_witness_FullOdometryFrame : [0, 1, 2, 3, 4, 5, 6, (7 : Byte)].length ≤ 8 := by decide

/-- ShortOdometryFrameDrawsTheMissingBytes: lengths 0, 4, 5 and 7, the bounds of its two clauses. -/
theorem test_witness_ShortOdometryFrame :
    (pay []).bytes.length < 8 ∧ (pay [0, 0, 0, 0]).bytes.length ≤ 4 + 0 ∧ (pay [0, 0, 0, 0, 0xAA]).bytes[4 + 0]? = some 0xAA ∧
    (pay [0, 0, 0, 0, 0xAA]).bytes.length ≤ 4 + 1 ∧ (pay [0, 0, 0, 0, 0, 0, 0x40]).bytes[4 + 2]? = some 0x40 ∧
    (pay [0, 0, 0, 0, 0, 0, 0x40]).bytes.length ≤ 4 + 3 := by decide

/-- OnlyOdometryWritesX: an instruction that changes `x`. -/
theorem test_witness_OnlyOdometryWritesX :
    ∃ t, exec (.rxOdom (pay [0, 0, 0, 0, 0, 0, 0, 1])) (inMode .run) = .next t ∧ t.msg.x ≠ (inMode .run).msg.x :=
  ⟨_, rfl, by decide⟩

/-- OnlyResetWritesYAndZ, OutputsAreNeverRetracted: an instruction other than RESET that answers a next state. -/
theorem test_witness_OnlyResetWritesYAndZ :
    (∃ t, exec (.rxOther ⟨0, pay []⟩) (inMode .run) = .next t) ∧ Instr.rxOther ⟨0, pay []⟩ ≠ .reset :=
  ⟨⟨_, rfl⟩, by decide⟩

/-- OnlyAFailedStartHalts, ModeMovesOnlyByInitAndReset: a step into HALT, one into RUN, one out of HALT. -/
theorem test_witness_mode_moves :
    (∃ t, exec (.init false) (inMode .init) = .next t ∧ t.mode = .halt) ∧
    (∃ t, exec (.init true) (inMode .init) = .next t ∧ t.mode = .run) ∧
    (∃ t, exec .reset (inMode .halt) = .next t ∧ t.mode ≠ (inMode .halt).mode) :=
  ⟨⟨_, rfl, rfl⟩, ⟨_, rfl, rfl⟩, ⟨_, rfl, by decide⟩⟩

/-- LoopServesCommandsThenPolls: a full odometry frame and a frame of another ID. -/
theorem test_witness_LoopServesCommandsThenPolls :
    (inMode .run).mode = .run ∧ (⟨0x403, pay [0, 1, 2, 3, 4, 5, 6, 7]⟩ : Frame).id = 0x403 ∧
    (pay [0, 1, 2, 3, 4, 5, 6, 7]).bytes = [0, 1, 2, 3, 4, 5, 6, 7] ∧ (⟨0, pay [1]⟩ : Frame).id ≠ 0x403 := by decide

/-- LoopWithAShortOdometryFrame: the longest short frame, whose byte 6 is supplied and byte 7 is not; and the empty one. -/
theorem test_witness_LoopWithAShortOdometryFrame :
    (inMode .run).mode = .run ∧ (⟨0x403, pay [0, 1, 2, 3, 4, 5, 6]⟩ : Frame).id = 0x403 ∧
    (⟨0x403, pay [0, 1, 2, 3, 4, 5, 6]⟩ : Frame).len < 8 ∧ (pay [0, 1, 2, 3, 4, 5, 6]).bytes[4 + 2]? = some 6 ∧
    (⟨0x403, pay [0, 1, 2, 3, 4, 5, 6]⟩ : Frame).len ≤ 4 + 3 ∧ (⟨0x403, pay []⟩ : Frame).len ≤ 4 + 0 := by decide

/-- HaltLastsUntilReset: a trace without RESET that runs in HALT. -/
theorem test_witness_HaltLastsUntilReset :
    Instr.reset ∉ [Instr.txcmd 1, .f32enc 2] ∧ ∃ t, runEvents [Instr.txcmd 1, .f32enc 2] (inMode .halt) = .next t :=
  ⟨by decide, _, rfl⟩

/-- RefusedExactlyOutOfMode, ResetRestoresModeAndRecord, ReservedSelectorIsRefused: each outcome occurs. -/
theorem test_witness_RefusedExactlyOutOfMode :
    exec (.txcmd 1) (inMode .init) = .refused .loopNotStarted ∧ exec (.init true) (inMode .run) = .refused .startupAlreadyReported ∧
    exec .reserved (inMode .run) = .refused .reservedSelector ∧ ∃ t, exec .reset (inMode .run) = .next t :=
  ⟨rfl, rfl, rfl, _, rfl⟩

/-- LoopOperationsFrame: a loop instruction that polls no odometry frame. -/
theorem test_witness_LoopOperationsFrame :
    loopInstr (.txcmd 1) = true ∧ (∃ t, exec (.txcmd 1) (inMode .run) = .next t) ∧
    (∀ data, Instr.txcmd 1 ≠ .rxOdom data) ∧ (∀ f, Instr.txcmd 1 = .rxpoll (some f) → f.id ≠ 0x403) ∧
    (∀ cmds f, Instr.txcmd 1 = .loop cmds (some f) → f.id ≠ 0x403) :=
  ⟨rfl, ⟨_, rfl⟩, by simp, by simp, by simp⟩

/-- EveryStepKeepsTheInvariant, StepTakesOneStimulus: a state with the invariant that steps, its record not at its defaults. -/
theorem test_witness_EveryStepKeepsTheInvariant :
    ∃ s t, Inv s ∧ s.msg.x ≠ Config.params.msgDefault ∧ step s = .next t :=
  ⟨{ inMode .run with
      taken := [.frame ⟨0x403, pay [0, 0, 0, 0, 0x00, 0x00, 0x40, 0x41]⟩], out := [.pub ⟨0x41400000, 0, 0⟩]
      stimuli := [encode (.txcmd 1)] }, _,
    ⟨rfl, rfl, fun h => absurd rfl h, fun _ => ⟨_, List.mem_singleton.2 rfl, rfl⟩,
      .cons ⟨rfl, rfl, fun _ _ h => by cases h; rfl⟩ .nil⟩,
    by decide, rfl⟩

/-- DecodeOfEncodeIsTheInstruction, MachineRunsTheEncodedTrace: well-formed instructions, RX.OTHER among them. -/
theorem test_witness_DecodeOfEncode :
    (Instr.rxOther ⟨0x402, pay [1]⟩).wf = true ∧ ∀ i ∈ [Instr.init true, .txcmd 1, .rxOther ⟨0x402, pay [1]⟩], i.wf = true := by
  decide

/-- PollWordsDispatchByTheTable: a word of each kind, at the bounds of the second. -/
theorem test_witness_PollWords :
    (0x7FF#12).getLsbD 11 = false ∧ (0x402#12).getLsbD 11 = false ∧ (0xC03#12).getLsbD 11 = true ∧
    (0xC02#12).getLsbD 11 = true ∧ 0xC02#12 ≠ 0xC03#12 ∧ (0xC04#12).getLsbD 11 = true ∧ 0xC04#12 ≠ 0xC03#12 := by decide

/-- DecodedInstructionsAreWellFormed, StepRunsTheDecodedInstruction, StepRefusesWhatDoesNotDecode,
StepWithNothingOfferedChangesNothing: a stimulus that decodes, one that does not, and none. -/
theorem test_witness_decoding :
    decode ⟨.stim, [6]⟩ = .ok .reset ∧ decode ⟨.stim, [8]⟩ = .error .paddingBits ∧
    ({ State.reset with stimuli := [⟨.stim, [6]⟩] } : State).stimuli = [⟨.stim, [6]⟩] ∧ (inMode .run).stimuli = [] := by
  decide

/-- WhatIsNoFrameIsRefused: its three clauses, the last at `len` = 9, and the three carriers, LOOP with a command. -/
theorem test_witness_WhatIsNoFrame :
    (wordOf 0x03 0x1C).getLsbD 12 = true ∧ (wordOf 0x03 0x2C).getLsbD 12 = false ∧ (wordOf 0x03 0x2C).getLsbD 13 = true ∧
    (wordOf 0x03 0x0C).extractLsb' 12 4 = 0 ∧ (wordOf 0x03 0x0C).getLsbD 11 = true ∧ 8 < (9 : Byte).toNat ∧
    ∀ st ∈ [⟨.rxsel, [0x03, 0x0C, 9]⟩, ⟨.stim, [0x03, 0x03, 0x0C, 9]⟩,
        ⟨.stim, [0x05, 1, 0x00, 0x00, 0x20, 0x40, 0, 0x03, 0x0C, 9]⟩],
      st ∈ [⟨.rxsel, [0x03, 0x0C, 9]⟩, ⟨.stim, 0x03 :: [0x03, 0x0C, 9]⟩,
        (⟨.stim, 0x05 :: (encodeCmds [0x40200000] ++ [0x03, 0x0C, 9])⟩ : Stimulus)] := by decide

/-- LOOP's operand is refused behind its commands; expected value from R71 and the layout of log entry 9. -/
theorem test_decode_loop_refuses :
    decode ⟨.stim, [0x05, 1, 0x00, 0x00, 0x20, 0x40, 0, 0x03, 0x1C, 0]⟩ = .error .extendedFrame ∧
    decode ⟨.stim, [0x03, 0x03, 0x2C, 0]⟩ = .error .remoteFrame := by decide

/-- PollingProperties: its first clauses ask for RUN alone; the last for full odometry frames, as in this trace of a full one
and a short frame of another ID. -/
theorem test_witness_PollingProperties :
    (inMode .run).mode = .run ∧
    ∀ it ∈ [(([1], some ⟨0x403, pay [0, 0, 0, 0, 1, 2, 3, 4]⟩) : Iteration), ([], some ⟨0x123, pay []⟩)],
      FullOdometry Config.params it := by
  refine ⟨rfl, fun it hit f hf hid => ?_⟩
  fin_cases hit
  · cases hf; rfl
  · cases hf; exact absurd hid (by decide)

/-- RecordStaysAtDefaultUntilOdometry: a run from reset with no odometry frame, one in which no start-up succeeds, and one
that leaves `x` off its default. -/
theorem test_witness_RecordStaysAtDefault :
    (∀ i ∈ [Instr.init true, .rxOther ⟨0x402, pay []⟩], pollsOdometry Config.params i = false) ∧
    (∃ t, runEvents [.reset, .init true, .rxOther ⟨0x402, pay []⟩] (inMode .halt) = .next t) ∧
    Instr.init true ∉ [Instr.init false, .rxOdom (pay [])] ∧
    (∃ t, runEvents [.reset, .init false, .rxOdom (pay [])] (inMode .run) = .next t) ∧
    ∃ t, runEvents [.reset, .init true, .rxOdom (pay [0, 0, 0, 0, 0, 0, 0, 1])] (inMode .halt) = .next t ∧
      t.msg.x ≠ Config.params.msgDefault :=
  ⟨by decide, ⟨_, rfl⟩, by decide, ⟨_, rfl⟩, _, rfl, by decide⟩

/-- TraceLinesAreIterations: lines of 8 bytes and of 9, and a state in RUN. -/
theorem test_witness_TraceLines :
    ((List.replicate 8 (ByteForm.byte 0)).flatMap (ByteForm.bytes Config.params)).length ≤ 8 ∧
    8 < ((List.replicate 9 (ByteForm.byte 0)).flatMap (ByteForm.bytes Config.params)).length ∧
    (inMode .run).mode = .run := by decide

/-- UnreadBytesNeverInfluenceTheRun: two different traces the block cannot tell apart, and a run of the first. -/
theorem test_witness_UnreadBytes :
    let its : List Iteration := [([1], some ⟨0x403, pay [0, 0, 0, 0, 1]⟩), ([], some ⟨0x123, pay []⟩)]
    List.Forall₂ (fun (it jt : Iteration) => it.1 = jt.1 ∧ SameReading Config.params it.2 jt.2) its
      [([1], some ⟨0x403, pay [9, 8, 7, 6, 1]⟩), ([], some ⟨0x7FF, pay [5]⟩)] ∧
    Alike (inMode .run) (inMode .run) ∧ ∃ t, runEvents (its.map loopOf) (inMode .run) = .next t :=
  ⟨.cons ⟨rfl, .inl ⟨rfl, rfl, rfl, rfl⟩⟩ (.cons ⟨rfl, .inr ⟨by decide, by decide⟩⟩ .nil),
    ⟨rfl, rfl, rfl, rfl, rfl⟩, _, rfl⟩

end Sys2Proof.Tests
end

/-! The family of 10_state.md: which instructions write the message record. -/

namespace Sys2Proof.Machine

/-- The coder's two functions are inverse in this order: a pattern is the concatenation of its four bytes (R92). -/
theorem f32dec_f32enc (w : Bits32) : f32dec (f32enc w) = w := by
  change w.extractLsb' 24 8 ++ w.extractLsb' 16 8 ++ w.extractLsb' 8 8 ++ w.extractLsb' 0 8 = w
  rw [BitVec.extractLsb'_append_extractLsb'_eq_extractLsb' (by decide),
    BitVec.extractLsb'_append_extractLsb'_eq_extractLsb' (by decide),
    BitVec.extractLsb'_append_extractLsb'_eq_extractLsb' (by decide)]
  exact BitVec.extractLsb'_eq_self

/-- A full buffer received as a payload is the receive buffer, whatever draws have been made (R122). -/
theorem rxBuffer_payloadOf (b : Bytes 8) (n : Nat) : rxBuffer (payloadOf b) n = b :=
  Bytes.ext_list (rxBuffer_full (payloadOf b) n b.len)

/-- The odometry field stands where an outbound payload carries its command value, so decoding that payload gives the value
back (R65, R66). -/
theorem odomField_txPay (p : Params) (w : Bits32) (n : Nat) : odomField (payloadOf (txPay p w)) n = w := by
  rw [odomField, rxBuffer_payloadOf, txPay, memRead_memWrite, f32dec_f32enc]

end Sys2Proof.Machine

namespace Sys2Proof.Safety

open Sys2Proof.Machine

/-- The record changes only at RESET or at an odometry poll in RUN (R22, R23). -/
theorem exec_msg_cases {i : Instr} {s t : State} (h : exec i s = .next t) :
    t.msg = s.msg ∨ i = .reset ∨ (s.mode = .run ∧ pollsOdometry Config.params i = true) := by
  obtain ⟨-, hrun, rfl⟩ | ⟨-, -, rfl⟩ | ⟨_, -, rfl⟩ | ⟨_, -, rfl⟩ | ⟨_, -, -, rfl⟩ | ⟨hreset, -⟩ := exec_next_cases h
  · by_cases hpoll : pollsOdometry Config.params i = true
    · exact .inr (.inr ⟨hrun, hpoll⟩)
    · exact .inl (loopEffect_msg (Bool.eq_false_iff.mpr hpoll) s)
  · exact .inl rfl
  · exact .inl rfl
  · exact .inl rfl
  · exact .inl rfl
  · exact .inr (.inl hreset)

/-- In RUN, a polled odometry frame makes `MSG.x` the odometry field of its payload (R122, R123). -/
theorem exec_rxpoll_odom_x {f : Frame} {s : State} (hrun : s.mode = .run) (hid : f.id = Config.params.odomId) :
    ∃ t, exec (.rxpoll (some f)) s = .next t ∧ t.msg.x = odomField f.data s.draws := by
  refine ⟨rxOdom Config.params f.data s, ?_, by rw [rxOdom_eq]⟩
  rw [exec_loopInstr rfl, duringLoop_run _ hrun, loopEffect, rxPoll_odom _ _ _ hid]

end Sys2Proof.Safety

namespace Sys2Proof

open Machine Safety

/-- Settles O14: a step that changes the record is RESET or an odometry poll in RUN; and the payload that carries `w` as a
command value, received under the odometry ID, stores `w`. -/
theorem onlyOdometryWritesX : Obligations.OnlyOdometryWritesX := by
  unfold Obligations.OnlyOdometryWritesX
  refine ⟨fun i s t hexec hx => ?_, fun w s hrun => ?_⟩
  · obtain hmsg | hreset | ⟨hrun, hpoll⟩ := exec_msg_cases hexec
    · exact absurd (congrArg Msg.x hmsg) hx
    · exact .inl hreset
    · exact .inr ⟨hrun, (pollsOdometry_iff _ _).mp hpoll⟩
  · obtain ⟨t, hexec, hx⟩ :=
      exec_rxpoll_odom_x (f := ⟨0x403, payloadOf (txPay Config.params w)⟩) hrun rfl
    exact ⟨_, t, rfl, hexec, hx.trans (odomField_txPay _ w _)⟩

end Sys2Proof

/-! The family of 40_float_codec.md: the coder's two operations, as instructions and as numbers. -/

namespace Sys2Proof.Machine

theorem exec_f32enc (p : Bits32) (s : State) : exec (.f32enc p) s = .next (s.answer (.enc (f32enc p))) := rfl

theorem exec_f32dec (b : Bytes 4) (s : State) : exec (.f32dec b) s = .next (s.answer (.dec (f32dec b))) := rfl

/-- Byte `i` of an encoding is the eight bits of the pattern from bit `8 i` on (R90). -/
theorem f32enc_get (p : Bits32) (i : Fin 4) : (f32enc p).get i = p.extractLsb' (8 * i.val) 8 := by
  fin_cases i <;> rfl

/-- As a number, byte `i` of an encoding is digit `i` of the pattern in base 256 (R90). -/
theorem f32enc_get_toNat (p : Bits32) (i : Fin 4) : ((f32enc p).get i).toNat = p.toNat / 256 ^ i.val % 256 := by
  rw [f32enc_get, BitVec.extractLsb'_toNat, Nat.shiftRight_eq_div_pow, pow_mul]
  norm_num

/-- Bits put below a pattern shift it up, and the two numbers add. -/
theorem toNat_append_eq_add {m n : Nat} (x : BitVec m) (y : BitVec n) :
    (x ++ y).toNat = x.toNat * 2 ^ n + y.toNat := by
  rw [BitVec.toNat_append, ← Nat.shiftLeft_add_eq_or_of_lt y.isLt, Nat.shiftLeft_eq]

/-- As a number, a decoded quadruple has its bytes as digits in base 256, byte 0 the lowest (R91). -/
theorem f32dec_toNat (b : Bytes 4) :
    (f32dec b).toNat =
      (b.get 0).toNat + 256 * (b.get 1).toNat + 65536 * (b.get 2).toNat + 16777216 * (b.get 3).toNat := by
  rw [f32dec, toNat_append_eq_add, toNat_append_eq_add, toNat_append_eq_add]
  ring

end Sys2Proof.Machine

namespace Sys2Proof

open Machine

/-- Settles O1: each byte is a slice of the pattern, which as a number is a digit of it in base 256. -/
theorem f32encAnswersBytesLowFirst : Obligations.F32encAnswersBytesLowFirst := fun p s =>
  ⟨f32enc p, exec_f32enc p s, f32enc_get p 0, f32enc_get p 1, f32enc_get p 2, f32enc_get p 3, f32enc_get_toNat p⟩

/-- Settles O2: the answered word is the concatenation, whose number adds up the shifted bytes. -/
theorem f32decAnswersConcatenation : Obligations.F32decAnswersConcatenation := fun b s =>
  ⟨f32dec b, exec_f32dec b s, rfl, f32dec_toNat b⟩

/-- Settles O3: the bytes F32ENC answers are `f32enc p`, and F32DEC of them answers `f32dec (f32enc p)`, which is `p`. -/
theorem decodingAnEncodedFloatGivesItBack : Obligations.DecodingAnEncodedFloatGivesItBack := by
  unfold Obligations.DecodingAnEncodedFloatGivesItBack
  intro p
  have hround : f32dec (f32enc p) = p := f32dec_f32enc p
  refine ⟨hround, fun s => ⟨f32enc p, s.answer (.enc (f32enc p)), exec_f32enc p s, s.answer_ports _, ?_⟩⟩
  rw [exec_f32dec, hround, State.answer]

end Sys2Proof

/-! The family of 41_outbound.md: the command frame TXCMD requests. -/

namespace Sys2Proof.Machine

theorem exec_txcmd (v : Bits32) (s : State) : exec (.txcmd v) s = duringLoop (txCmd Config.params v) s := rfl

/-- The command frame is always a full one (R65). -/
theorem txFrame_len (p : Params) (v : Bits32) : (txFrame p v).len = 8 := (txPay p v).len

/-- The constant `K_BITS` in offset order, at its default (R5, R110). -/
theorem f32enc_kBits_list : (f32enc Config.params.kBits).list = [0x9A, 0x99, 0x59, 0x3F] := by decide

end Sys2Proof.Machine

namespace Sys2Proof

open Machine

/-- Settles O6: in RUN the operation's effect is `txCmd`, which requests `txFrame` and nothing more; the one other mode that
answers a next state is HALT, and it answers the state itself. -/
theorem txcmdRequestsTheCommandFrame : Obligations.TxcmdRequestsTheCommandFrame := by
  unfold Obligations.TxcmdRequestsTheCommandFrame
  refine fun v s => ⟨fun hrun => ?_, fun hmode t hexec => ?_⟩
  · refine ⟨txFrame Config.params v, ?_, rfl, txFrame_len _ v, txFrame_bytes _ v, ?_⟩
    · rw [exec_txcmd, duringLoop_run _ hrun, txCmd_eq]
    · rw [txFrame_bytes, f32enc_kBits_list, f32enc_list]
      rfl
  · rw [exec_txcmd] at hexec
    obtain ⟨hrun, -⟩ | ⟨-, hsame⟩ := duringLoop_next hexec
    · exact absurd hrun hmode
    · exact hsame

end Sys2Proof

/-! The family of 42_inbound.md: what a poll does, by the sub-case its answer selects. -/

namespace Sys2Proof.Machine

theorem exec_rxpoll (rx : Option Frame) (s : State) :
    exec (.rxpoll rx) s = duringLoop (rxPoll Config.params rx) s := rfl

theorem exec_rxNone (s : State) : exec .rxNone s = duringLoop rxNone s := rfl

theorem exec_rxOdom (data : Payload) (s : State) :
    exec (.rxOdom data) s = duringLoop (rxOdom Config.params data) s := rfl

theorem exec_rxOther (f : Frame) (s : State) : exec (.rxOther f) s = duringLoop (rxOther f) s := rfl

/-- A poll with no frame is RX.NONE, in every mode (R120). -/
theorem exec_rxpoll_none (s : State) : exec (.rxpoll none) s = exec .rxNone s := rfl

/-- A poll with an odometry frame is RX.ODOM of its payload, in every mode (R120, R121). -/
theorem exec_rxpoll_odom {f : Frame} (hid : f.id = Config.params.odomId) (s : State) :
    exec (.rxpoll (some f)) s = exec (.rxOdom f.data) s := by
  have heffect : rxPoll Config.params (some f) = rxOdom Config.params f.data :=
    funext fun u => rxPoll_odom _ f u hid
  rw [exec_rxpoll, exec_rxOdom, heffect]

/-- A poll with a frame of any other ID is RX.OTHER, in every mode (R120, R121). -/
theorem exec_rxpoll_other {f : Frame} (hid : f.id ≠ Config.params.odomId) (s : State) :
    exec (.rxpoll (some f)) s = exec (.rxOther f) s := by
  have heffect : rxPoll Config.params (some f) = rxOther f := funext fun u => rxPoll_other _ f u hid
  rw [exec_rxpoll, exec_rxOther, heffect]

/-- No sub-case moves the mode (R24). -/
theorem rxPoll_mode (p : Params) (rx : Option Frame) (s : State) : (rxPoll p rx s).mode = s.mode := by
  cases rx with
  | none => rfl
  | some f =>
    by_cases hid : f.id = p.odomId
    · rw [rxPoll_odom p f s hid, rxOdom_eq]
    · rw [rxPoll_other p f s hid, rxOther_eq]

/-- RX.OTHER and RX.ODOM of one frame differ in RUN where the payload's field is not the `MSG.x` held: only RX.ODOM writes
it (R122, R124). -/
theorem exec_rxOther_ne_exec_rxOdom {f : Frame} {s : State} (hrun : s.mode = .run)
    (hx : odomField f.data s.draws ≠ s.msg.x) : exec (.rxOther f) s ≠ exec (.rxOdom f.data) s := by
  rw [exec_rxOther, exec_rxOdom, duringLoop_run _ hrun, duringLoop_run _ hrun, rxOther_eq, rxOdom_eq]
  intro heq
  injection heq with hstate
  exact hx (congrArg (fun u => u.msg.x) hstate).symm

/-- The float of a full odometry frame is its last four bytes, the last one highest (R122). -/
theorem odomField_full (b0 b1 b2 b3 b4 b5 b6 b7 : Byte) (h : [b0, b1, b2, b3, b4, b5, b6, b7].length ≤ 8) (n : Nat) :
    odomField ⟨[b0, b1, b2, b3, b4, b5, b6, b7], h⟩ n = b7 ++ b6 ++ b5 ++ b4 := by
  simp only [odomField_eq, Bytes.get, rxBuffer_full ⟨[b0, b1, b2, b3, b4, b5, b6, b7], h⟩ n rfl]
  rfl

end Sys2Proof.Machine

namespace Sys2Proof

open Machine

/-- Settles O9: the two sides of the ID test are two instructions, which RESET's record in RUN and a payload that carries 1
tell apart. -/
theorem pollSelectsTheSubcase : Obligations.PollSelectsTheSubcase := by
  unfold Obligations.PollSelectsTheSubcase
  refine ⟨fun rx s hrun => ?_, fun rx s t hmode hexec => ?_, exec_rxpoll_none, fun f s hid => exec_rxpoll_odom hid s,
    fun f s hid => exec_rxpoll_other hid s, fun id => ⟨fun hodom => ?_, fun hid data s => exec_rxpoll_odom hid s⟩⟩
  · exact ⟨rxPoll Config.params rx s, by rw [exec_rxpoll, duringLoop_run _ hrun], by rw [rxPoll_mode, hrun]⟩
  · obtain ⟨hrun, -⟩ | ⟨-, hsame⟩ := duringLoop_next hexec
    · exact absurd hrun hmode
    · exact hsame
  · by_contra hid
    let data := payloadOf (txPay Config.params 1)
    let s : State := { State.reset with mode := .run }
    have hx : odomField data s.draws ≠ s.msg.x := by
      rw [odomField_txPay]
      decide
    exact exec_rxOther_ne_exec_rxOdom (f := ⟨id, data⟩) rfl hx ((exec_rxpoll_other hid s).symm.trans (hodom data s))

/-- Settles O10: a poll with no frame is RX.NONE, whose effect in RUN is none. -/
theorem noFrameNoEffect : Obligations.NoFrameNoEffect := by
  unfold Obligations.NoFrameNoEffect
  intro s hrun
  have hnone : exec .rxNone s = .next s := by rw [exec_rxNone, duringLoop_run _ hrun, rxNone_eq]
  exact ⟨hnone, (exec_rxpoll_none s).trans hnone⟩

/-- Settles O11: a full frame needs no draw, and its field is its last four bytes. -/
theorem fullOdometryFrameIsDecodedAndPublished : Obligations.FullOdometryFrameIsDecodedAndPublished := by
  unfold Obligations.FullOdometryFrameIsDecodedAndPublished
  intro b0 b1 b2 b3 b4 b5 b6 b7 h s hrun data m t
  have hodom : exec (.rxOdom data) s = .next t := by
    rw [exec_rxOdom, duringLoop_run _ hrun, rxOdom_eq, odomField_full, missingBytes_full data rfl]
    rfl
  exact ⟨hodom, (exec_rxpoll_odom rfl s).trans hodom⟩

/-- Settles O13: the poll is RX.OTHER, whose effect in RUN reads nothing of the frame's payload. -/
theorem otherFrameRepublishesTheRecord : Obligations.OtherFrameRepublishesTheRecord := by
  unfold Obligations.OtherFrameRepublishesTheRecord
  intro f s hrun hid t
  have hother : exec (.rxOther f) s = .next t := by rw [exec_rxOther, duringLoop_run _ hrun, rxOther_eq]
  exact ⟨hother, (exec_rxpoll_other hid s).trans hother⟩

end Sys2Proof

/-! The family of 43_loop_and_system.md: start-up, and an iteration as its commands and then its poll. -/

namespace Sys2Proof.Machine

theorem exec_init (canOk : Bool) (s : State) : exec (.init canOk) s = reportStartup canOk s := rfl

theorem exec_loop (cmds : List Bits32) (rx : Option Frame) (s : State) :
    exec (.loop cmds rx) s = duringLoop (loopIteration Config.params cmds rx) s := rfl

/-- In mode INIT, the start-up step writes the mode its outcome names and nothing else (R140, R164). -/
theorem reportStartup_init (canOk : Bool) {s : State} (hinit : s.mode = .init) :
    reportStartup canOk s = .next { s with mode := if canOk then .run else .halt } := by
  cases canOk <;> simp [reportStartup, hinit, State.setMode]

/-- Out of RUN, a loop operation that answers a next state answers the state it was given (R141, R145). -/
theorem duringLoop_next_of_ne_run {act : State → State} {s t : State} (hmode : s.mode ≠ .run)
    (h : duringLoop act s = .next t) : t = s := by
  obtain ⟨hrun, -⟩ | ⟨-, hsame⟩ := duringLoop_next h
  · exact absurd hrun hmode
  · exact hsame

/-- Serving commands never moves the mode (R24). -/
theorem txCmds_mode (p : Params) (cmds : List Bits32) (s : State) : (txCmds p cmds s).mode = s.mode := by
  rw [txCmds_eq]

/-- In RUN, an iteration is RXPOLL in the state its commands leave (R144). -/
theorem exec_loop_run (cmds : List Bits32) (rx : Option Frame) {s : State} (hrun : s.mode = .run) :
    exec (.loop cmds rx) s = exec (.rxpoll rx) (txCmds Config.params cmds s) := by
  have hserved : (txCmds Config.params cmds s).mode = .run := (txCmds_mode _ cmds s).trans hrun
  rw [exec_loop, exec_rxpoll, duringLoop_run _ hrun, duringLoop_run _ hserved, loopIteration]

end Sys2Proof.Machine

namespace Sys2Proof

open Machine

/-- Settles O18: in RUN the iteration is a poll in the state `u` its commands leave, which is still in RUN, so each clause is
the rule of RXPOLL for that answer (R126, R124, R122) at `u`. -/
theorem loopServesCommandsThenPolls : Obligations.LoopServesCommandsThenPolls := by
  unfold Obligations.LoopServesCommandsThenPolls
  refine ⟨fun cmds rx s t hmode hexec => duringLoop_next_of_ne_run hmode hexec, ?_⟩
  intro cmds s hrun u
  have hpoll : ∀ rx, exec (.loop cmds rx) s = exec (.rxpoll rx) u := fun rx => by
    rw [exec_loop_run cmds rx hrun, txCmds_eq]
  refine ⟨?_, fun f hid => ?_, fun f b0 b1 b2 b3 b4 b5 b6 b7 hid hbytes => ?_⟩
  · exact (hpoll none).trans (noFrameNoEffect u hrun).2
  · exact (hpoll (some f)).trans (otherFrameRepublishesTheRecord f u hrun hid).2
  · obtain ⟨id, bytes, hlen⟩ := f
    subst hid hbytes
    exact (hpoll _).trans (fullOdometryFrameIsDecodedAndPublished b0 b1 b2 b3 b4 b5 b6 b7 hlen u hrun).2

/-- Settles O16: in mode INIT the answer is known, and its `FATAL` is read off the mode written; a next state from any other
mode is excluded by the inversion of the start-up step. -/
theorem initReportsStartup : Obligations.InitReportsStartup := by
  unfold Obligations.InitReportsStartup
  refine fun canOk s => ⟨fun hinit => ?_, fun hmode t hexec => hmode (reportStartup_next hexec).1⟩
  have hexec : exec (.init canOk) s = .next { s with mode := if canOk then .run else .halt } := by
    rw [exec_init, reportStartup_init canOk hinit]
  refine ⟨hexec, fun t ht => ?_⟩
  obtain ⟨-, rfl⟩ := reportStartup_next ht
  cases canOk with
  | false => rfl
  | true => rfl

end Sys2Proof

/-! The family of 60_exceptions.md: what raises the one exception, and what its entry writes. -/

namespace Sys2Proof.Machine

/-- No operation of the loop moves the mode (R24). -/
theorem loopEffect_mode (p : Params) (i : Instr) (s : State) : (loopEffect p i s).mode = s.mode := by
  cases i with
  | rxpoll rx => exact rxPoll_mode p rx s
  | loop cmds rx => exact (rxPoll_mode p rx _).trans (txCmds_mode p cmds s)
  | _ => rfl

/-- An instruction that moves the mode is a start-up report in mode INIT, which writes the mode alone, or RESET, which leaves
it INIT (R24, R140, R180). -/
theorem exec_mode_cases {i : Instr} {s t : State} (h : exec i s = .next t) :
    t.mode = s.mode ∨
    (∃ ok, i = .init ok ∧ s.mode = .init ∧ t = { s with mode := if ok then .run else .halt }) ∨
    (i = .reset ∧ t.mode = .init) := by
  obtain ⟨-, -, rfl⟩ | ⟨-, -, rfl⟩ | ⟨_, -, rfl⟩ | ⟨_, -, rfl⟩ | hstart | ⟨hreset, rfl⟩ := exec_next_cases h
  · exact .inl (loopEffect_mode _ i s)
  · exact .inl rfl
  · exact .inl rfl
  · exact .inl rfl
  · exact .inr (.inl hstart)
  · exact .inr (.inr ⟨hreset, rfl⟩)

end Sys2Proof.Machine

namespace Sys2Proof

open Machine

/-- Settles O17: of the three ways a step can treat the mode, keeping it and RESET do not enter HALT, and a start-up report
enters it only with outcome 0. -/
theorem onlyAFailedStartHalts : Obligations.OnlyAFailedStartHalts := by
  unfold Obligations.OnlyAFailedStartHalts
  refine ⟨fun s => raiseFatal_eq s _, fun s hinit => ?_, fun i s t hexec hs ht => ?_⟩
  · rw [exec_init, reportStartup_init false hinit, raiseFatal_eq]
    rfl
  · obtain hsame | ⟨ok, rfl, hinit, rfl⟩ | ⟨-, hreset⟩ := exec_mode_cases hexec
    · exact absurd (hsame.symm.trans ht) hs
    · cases ok with
      | false => exact ⟨rfl, hinit, rfl⟩
      | true => cases ht
    · cases hreset.symm.trans ht

end Sys2Proof

/-! The coder as a bijection, and the bytes of what it encodes and decodes. -/

namespace Sys2Proof.Machine

/-- Two sequences of one length are equal when their bytes are. -/
theorem bytes_ext_get {n : Nat} {a b : Bytes n} (h : ∀ i, a.get i = b.get i) : a = b := by
  apply Bytes.ext_list
  exact List.ext_getElem (a.len.trans b.len.symm) fun k hk _ => h ⟨k, a.len ▸ hk⟩

/-- Digit `i` in base 256 of a decoded quadruple is its byte `i` (R91). -/
theorem f32dec_digit (b : Bytes 4) (i : Fin 4) : (f32dec b).toNat / 256 ^ i.val % 256 = (b.get i).toNat := by
  rw [f32dec_toNat]
  have h0 := (b.get 0).isLt
  have h1 := (b.get 1).isLt
  have h2 := (b.get 2).isLt
  have h3 := (b.get 3).isLt
  fin_cases i <;> simp <;> omega

/-- The coder's two functions are inverse in this order too: the digits of the number are the bytes it was made of (R93). -/
theorem f32enc_f32dec (b : Bytes 4) : f32enc (f32dec b) = b :=
  bytes_ext_get fun i => BitVec.eq_of_toNat_eq (by rw [f32enc_get_toNat, f32dec_digit])

theorem f32enc_bijective : Function.Bijective f32enc :=
  Function.bijective_iff_has_inverse.mpr ⟨f32dec, f32dec_f32enc, f32enc_f32dec⟩

theorem f32dec_bijective : Function.Bijective f32dec :=
  Function.bijective_iff_has_inverse.mpr ⟨f32enc, f32enc_f32dec, f32dec_f32enc⟩

/-- Bit `j` of byte `i` of an encoding is bit `8 i + j` of the pattern (R90). -/
theorem f32enc_get_getLsbD (p : Bits32) (i : Fin 4) {j : Nat} (hj : j < 8) :
    ((f32enc p).get i).getLsbD j = p.getLsbD (8 * i.val + j) := by
  rw [f32enc_get, BitVec.getLsbD_extractLsb', decide_eq_true hj, Bool.true_and]

/-- A slice of a slice is a slice. -/
theorem extractLsb'_of_extractLsb' {w : Nat} (v : BitVec w) {i k m n : Nat} (h : m + n ≤ k) :
    (v.extractLsb' i k).extractLsb' m n = v.extractLsb' (i + m) n := by
  ext j hj
  simp [show m + j < k by omega, Nat.add_assoc]

/-- The bytes of an encoding by the fields they hold, under the field layout of R62. -/
theorem f32enc_fields (p : Bits32) :
    (f32enc p).get 0 = (f32Fraction p).extractLsb' 0 8 ∧ (f32enc p).get 1 = (f32Fraction p).extractLsb' 8 8 ∧
    (f32enc p).get 2 = (f32Exponent p).extractLsb' 0 1 ++ (f32Fraction p).extractLsb' 16 7 ∧
    (f32enc p).get 3 = f32Sign p ++ (f32Exponent p).extractLsb' 1 7 := by
  refine ⟨Eq.symm (extractLsb'_of_extractLsb' p (by decide)), Eq.symm (extractLsb'_of_extractLsb' p (by decide)), ?_, ?_⟩
  · rw [f32Exponent, f32Fraction, extractLsb'_of_extractLsb' p (by decide), extractLsb'_of_extractLsb' p (by decide),
      BitVec.extractLsb'_append_extractLsb'_eq_extractLsb' (by decide)]
    rfl
  · rw [f32Sign, f32Exponent, extractLsb'_of_extractLsb' p (by decide),
      BitVec.extractLsb'_append_extractLsb'_eq_extractLsb' (by decide)]
    rfl

/-- Byte `i` of the float of an odometry frame is byte `4 + i` of the receive buffer (R68, R122). -/
theorem odomField_byte (data : Payload) (n : Nat) (i : Fin 4) :
    (odomField data n).extractLsb' (8 * i.val) 8 =
      (rxBuffer data n).list[4 + i.val]'(by rw [(rxBuffer data n).len]; omega) := by
  rw [← f32enc_get, odomField, f32enc_f32dec]
  simp [Bytes.get, memRead]

/-- A byte of the float that the frame supplies is the frame's (R123). -/
theorem odomField_byte_supplied {data : Payload} (n : Nat) {i : Nat} (hi : i < 4) {b : Byte}
    (hb : data.bytes[4 + i]? = some b) : (odomField data n).extractLsb' (8 * i) 8 = b := by
  obtain ⟨hlen, rfl⟩ := List.getElem?_eq_some_iff.mp hb
  rw [odomField_byte data n ⟨i, hi⟩, rxBuffer_getElem data n _ (by omega), dif_pos hlen]

/-- A byte of the float that the frame does not supply is its draw (R123, D9). -/
theorem odomField_byte_drawn {data : Payload} (n : Nat) {i : Nat} (hi : i < 4) (hlen : data.bytes.length ≤ 4 + i) :
    (odomField data n).extractLsb' (8 * i) 8 = Config.draw (n + (4 + i - data.bytes.length)) := by
  rw [odomField_byte data n ⟨i, hi⟩, rxBuffer_getElem data n _ (by omega), dif_neg (by simp; omega)]

end Sys2Proof.Machine

namespace Sys2Proof

open Machine

/-- Settles O4: each of the coder's functions undoes the other. -/
theorem coderIsABijection : Obligations.CoderIsABijection :=
  ⟨f32enc_f32dec, f32enc_bijective, f32dec_bijective⟩

/-- Settles O5: each byte is a slice of the pattern, and so is each of its fields. -/
theorem encodedFloatBitPlaces : Obligations.EncodedFloatBitPlaces :=
  ⟨fun p i _ hj => f32enc_get_getLsbD p i hj, f32enc_fields, f32enc_bijective.existsUnique⟩

end Sys2Proof

/-! The command frame, for every choice of the parameters. -/

namespace Sys2Proof.Machine

/-- The command value stands at offset 4 of the outbound payload (R65). -/
theorem txPay_value (p : Params) (v : Bits32) : memRead (txPay p v) 4 4 = f32enc v := memRead_memWrite _ _ _ _

/-- The constant stands at offset 0 of the outbound payload (R65). -/
theorem txPay_constant (p : Params) (v : Bits32) : memRead (txPay p v) 0 4 = f32enc p.kBits := by
  rw [txPay, memRead_memWrite_before _ _ _ _ _ (by decide), memRead_memWrite]

theorem txFrame_injective (p : Params) : Function.Injective (txFrame p) := by
  intro v w hframe
  have hpay : txPay p v = txPay p w := Bytes.ext_list (congrArg (fun f : Frame => f.data.bytes) hframe)
  have hvalue : f32enc v = f32enc w := by rw [← txPay_value p v, hpay, txPay_value]
  exact f32enc_bijective.injective hvalue

end Sys2Proof.Machine

namespace Sys2Proof

open Machine

/-- Settles O7: both fields are read back as they were written, and decoding undoes encoding. -/
theorem commandFrameCarriesTheCommand : Obligations.CommandFrameCarriesTheCommand := by
  unfold Obligations.CommandFrameCarriesTheCommand
  intro p v
  refine ⟨?_, ?_, rfl, rfl, txFrame_len p v, fun w hframe => txFrame_injective p hframe, fun hid s => ?_⟩
  · rw [txPay_value, f32dec_f32enc]
  · rw [txPay_constant, f32dec_f32enc]
  · have hother : rxPoll p (some (txFrame p v)) s = rxOther (txFrame p v) s := rxPoll_other p _ s hid
    exact ⟨hother, by rw [hother, rxOther_eq]⟩

end Sys2Proof

/-! What the operations of the loop do, in one equation: the commands served and the frame polled, whichever instruction
brings them. -/

namespace Sys2Proof.Machine

/-- `MSG.x` after a poll answer: the field of an odometry frame, what it was after any other answer (R122, R124, R126). -/
def polledX (p : Params) (rx : Option Frame) (s : State) : Bits32 :=
  match rx with
  | none => s.msg.x
  | some f => if f.id = p.odomId then odomField f.data s.draws else s.msg.x

/-- The draws a poll answer costs: one for each byte an odometry frame does not supply (R123). -/
def polledDraws (p : Params) (rx : Option Frame) : Nat :=
  match rx with
  | none => 0
  | some f => if f.id = p.odomId then missingBytes f.data else 0

/-- `s` with the commands served and the frame, if any, consumed and published with `x` in `MSG.x`, at `n` draws. -/
def served (p : Params) (cmds : List Bits32) (rx : Option Frame) (x : Bits32) (n : Nat) (s : State) : State :=
  { s with
    msg := { s.msg with x := x }
    out := s.out ++ cmds.map (fun v => .tx (txFrame p v)) ++ rx.toList.map (fun _ => .pub { s.msg with x := x })
    taken := s.taken ++ cmds.map .cmd ++ rx.toList.map .frame
    draws := s.draws + n }

section Served

variable (p : Params) (cmds : List Bits32) (rx : Option Frame) (x : Bits32) (n : Nat) (s : State)

@[simp] theorem served_mode : (served p cmds rx x n s).mode = s.mode := rfl
@[simp] theorem served_msg : (served p cmds rx x n s).msg = { s.msg with x := x } := rfl
@[simp] theorem served_stimuli : (served p cmds rx x n s).stimuli = s.stimuli := rfl
@[simp] theorem served_out : (served p cmds rx x n s).out =
    s.out ++ cmds.map (fun v => .tx (txFrame p v)) ++ rx.toList.map (fun _ => .pub { s.msg with x := x }) := rfl
@[simp] theorem served_ports : (served p cmds rx x n s).ports = s.ports := rfl
@[simp] theorem served_taken : (served p cmds rx x n s).taken =
    s.taken ++ cmds.map .cmd ++ rx.toList.map .frame := rfl
@[simp] theorem served_draws : (served p cmds rx x n s).draws = s.draws + n := rfl

end Served

/-- RXPOLL serves no command, then its answer (R120). -/
theorem rxPoll_eq_served (p : Params) (rx : Option Frame) (s : State) :
    rxPoll p rx s = served p [] rx (polledX p rx s) (polledDraws p rx) s := by
  cases rx with
  | none => simp [served, polledX, polledDraws]
  | some f =>
    by_cases hid : f.id = p.odomId
    · obtain ⟨id, data⟩ := f
      subst hid
      rw [rxPoll_odom p _ s rfl, rxOdom_eq]
      simp [served, polledX, polledDraws]
    · rw [rxPoll_other p f s hid, rxOther_eq]
      simp [served, polledX, polledDraws, hid]

/-- An iteration serves its commands, then its poll answer, and touches nothing else (R144). -/
theorem loopIteration_eq_served (p : Params) (cmds : List Bits32) (rx : Option Frame) (s : State) :
    loopIteration p cmds rx s = served p cmds rx (polledX p rx s) (polledDraws p rx) s := by
  have hx : polledX p rx (txCmds p cmds s) = polledX p rx s := by rw [txCmds_eq]; rfl
  rw [loopIteration, rxPoll_eq_served, hx, txCmds_eq]
  simp [served]

/-- RX.OTHER serves its frame and leaves `MSG.x`, whatever the frame's ID (R124). -/
theorem rxOther_eq_served (p : Params) (f : Frame) (s : State) : rxOther f s = served p [] (some f) s.msg.x 0 s := by
  rw [rxOther_eq]
  simp [served]

/-- A poll answer that is no odometry frame leaves `MSG.x` and costs no draw (R124, R126). -/
theorem polled_unchanged {p : Params} {rx : Option Frame} (s : State)
    (h : ∀ f, rx = some f → f.id ≠ p.odomId) : polledX p rx s = s.msg.x ∧ polledDraws p rx = 0 := by
  cases rx with
  | none => exact ⟨rfl, rfl⟩
  | some f => simp [polledX, polledDraws, h f rfl]

/-- In RUN, LOOP is the iteration in one equation (R144). -/
theorem exec_loop_served (cmds : List Bits32) (rx : Option Frame) {s : State} (hrun : s.mode = .run) :
    exec (.loop cmds rx) s =
      .next (served Config.params cmds rx (polledX Config.params rx s) (polledDraws Config.params rx) s) := by
  rw [exec_loop, duringLoop_run _ hrun, loopIteration_eq_served]

end Sys2Proof.Machine

namespace Sys2Proof.Safety

open Sys2Proof.Machine

/-- The operands of LOOP with which an instruction serves the same commands and the same poll answer; nothing to serve for
one that is none of the loop's. -/
def iterationOf (p : Params) : Instr → Iteration
  | .txcmd v => ([v], none)
  | .rxpoll rx => ([], rx)
  | .rxOdom data => ([], some ⟨p.odomId, data⟩)
  | .rxOther f => ([], some f)
  | .loop cmds rx => (cmds, rx)
  | .rxNone => ([], none)
  | .f32enc _ => ([], none)
  | .f32dec _ => ([], none)
  | .init _ => ([], none)
  | .reset => ([], none)
  | .reserved => ([], none)

/-- Every effect in the loop is that of an iteration, but for RX.OTHER with the ill-formed operand (log entry 16). -/
theorem loopEffect_eq_iteration {p : Params} {i : Instr} (h : ∀ f, i = .rxOther f → f.id ≠ p.odomId) (s : State) :
    loopEffect p i s = loopIteration p (iterationOf p i).1 (iterationOf p i).2 s := by
  cases i with
  | rxOdom data => exact (rxPoll_odom p ⟨p.odomId, data⟩ s rfl).symm
  | rxOther f => exact (rxPoll_other p f s (h f rfl)).symm
  | _ => rfl

/-- The effect of a well-formed instruction is its serving, with `MSG.x` as its poll answer leaves it. -/
theorem loopEffect_eq_polled {i : Instr} (hwf : i.wf = true) (s : State) :
    loopEffect Config.params i s =
      served Config.params (iterationOf Config.params i).1 (iterationOf Config.params i).2
        (polledX Config.params (iterationOf Config.params i).2 s)
        (polledDraws Config.params (iterationOf Config.params i).2) s := by
  rw [loopEffect_eq_iteration, loopIteration_eq_served]
  rintro f rfl
  simpa [Instr.wf] using hwf

/-- Every effect in the loop serves the instruction's commands and its poll answer; one that polls no odometry frame
leaves `MSG.x` and the draws. -/
theorem loopEffect_served (p : Params) (i : Instr) (s : State) :
    ∃ x n, loopEffect p i s = served p (iterationOf p i).1 (iterationOf p i).2 x n s ∧
      (pollsOdometry p i = false → x = s.msg.x ∧ n = 0) := by
  by_cases hother : ∃ f, i = .rxOther f
  · obtain ⟨f, rfl⟩ := hother
    exact ⟨s.msg.x, 0, rxOther_eq_served p f s, fun _ => ⟨rfl, rfl⟩⟩
  · refine ⟨_, _, (loopEffect_eq_iteration (fun f hf => absurd ⟨f, hf⟩ hother) s).trans
      (loopIteration_eq_served p _ _ s), fun hpoll => polled_unchanged s ?_⟩
    cases i with
    | rxOther f => exact absurd ⟨f, rfl⟩ hother
    | rxpoll rx => rintro f rfl; simpa [pollsOdometry, isOdometryId] using hpoll
    | loop cmds rx => rintro f rfl; simpa [pollsOdometry, isOdometryId] using hpoll
    | rxOdom data => cases hpoll
    | _ => rintro f ⟨⟩

/-- Everything `exec` can do when it answers a next state, with the loop's effect in one equation. -/
theorem exec_served_cases {i : Instr} {s t : State} (h : exec i s = .next t) :
    (∃ x n, loopInstr i = true ∧ s.mode = .run ∧
      t = served Config.params (iterationOf Config.params i).1 (iterationOf Config.params i).2 x n s ∧
      (pollsOdometry Config.params i = false → x = s.msg.x ∧ n = 0)) ∨
    (loopInstr i = true ∧ s.mode = .halt ∧ t = s) ∨
    (∃ r, loopInstr i = false ∧ t = s.answer r) ∨
    (∃ ok, i = .init ok ∧ s.mode = .init ∧ t = { s with mode := if ok then .run else .halt }) ∨
    (i = .reset ∧ t = { s with mode := .init, msg := Msg.default Config.params }) := by
  obtain ⟨hloop, hrun, rfl⟩ | hhalt | ⟨p, rfl, ht⟩ | ⟨b, rfl, ht⟩ | hinit | hreset := exec_next_cases h
  · obtain ⟨x, n, hserved, hkept⟩ := loopEffect_served Config.params i s
    exact .inl ⟨x, n, hloop, hrun, hserved, hkept⟩
  · exact .inr (.inl hhalt)
  · exact .inr (.inr (.inl ⟨_, rfl, ht⟩))
  · exact .inr (.inr (.inl ⟨_, rfl, ht⟩))
  · exact .inr (.inr (.inr (.inl hinit)))
  · exact .inr (.inr (.inr (.inr hreset)))

end Sys2Proof.Safety

/-! Rules of one instruction: what it sends, publishes, writes and leaves. -/

namespace Sys2Proof.Safety

open Sys2Proof.Machine

/-- A request after serving was there before, or is the frame of a command served. -/
theorem tx_mem_served {p : Params} {cmds : List Bits32} {rx : Option Frame} {x : Bits32} {n : Nat} {s : State}
    {f : Frame} (h : Out.tx f ∈ (served p cmds rx x n s).out) :
    Out.tx f ∈ s.out ∨ ∃ v ∈ cmds, f = txFrame p v := by
  simp only [served_out, List.mem_append, List.mem_map] at h
  obtain (hold | ⟨v, hv, hf⟩) | ⟨_, _, hpub⟩ := h
  · exact .inl hold
  · cases hf
    exact .inr ⟨v, hv, rfl⟩
  · cases hpub

/-- Serving publishes once if a frame was polled and else not at all (R128 v). -/
theorem served_pubs (p : Params) (cmds : List Bits32) (rx : Option Frame) (x : Bits32) (n : Nat) (s : State) :
    ((served p cmds rx x n s).out.filter isPub).length = (s.out.filter isPub).length + rx.toList.length := by
  have hcmds : (cmds.map (fun v => Out.tx (txFrame p v))).filter isPub = [] := by simp [isPub]
  have hrx : (rx.toList.map (fun _ => Out.pub { s.msg with x := x })).filter isPub =
      rx.toList.map (fun _ => Out.pub { s.msg with x := x }) := by simp [isPub]
  rw [served_out, List.filter_append, List.filter_append, hcmds, hrx]
  simp

/-- Serving requests one frame per command (R110, R144). -/
theorem served_txs (p : Params) (cmds : List Bits32) (rx : Option Frame) (x : Bits32) (n : Nat) (s : State) :
    ((served p cmds rx x n s).out.filter (fun o => !isPub o)).length =
      (s.out.filter (fun o => !isPub o)).length + cmds.length := by
  have hcmds : (cmds.map (fun v => Out.tx (txFrame p v))).filter (fun o => !isPub o) =
      cmds.map (fun v => Out.tx (txFrame p v)) := by simp [isPub]
  have hrx : (rx.toList.map (fun _ => Out.pub { s.msg with x := x })).filter (fun o => !isPub o) = [] := by simp [isPub]
  rw [served_out, List.filter_append, List.filter_append, hcmds, hrx]
  simp

/-- Serving only adds to the outputs and to the inputs taken. -/
theorem served_prefix (p : Params) (cmds : List Bits32) (rx : Option Frame) (x : Bits32) (n : Nat) (s : State) :
    s.out <+: (served p cmds rx x n s).out ∧ s.taken <+: (served p cmds rx x n s).taken := by
  simp only [served_out, served_taken, List.append_assoc]
  exact ⟨List.prefix_append _ _, List.prefix_append _ _⟩

/-- An instruction is refused by its mode, by its selector, or not at all (R141, R71). -/
theorem exec_refused_or_next (i : Instr) (s : State) :
    (exec i s = .refused .loopNotStarted ∧ loopInstr i = true ∧ s.mode = .init) ∨
    (exec i s = .refused .startupAlreadyReported ∧ (∃ b, i = .init b) ∧ s.mode ≠ .init) ∨
    (exec i s = .refused .reservedSelector ∧ i = .reserved) ∨
    ((∃ t, exec i s = .next t) ∧
      ¬ (loopInstr i = true ∧ s.mode = .init) ∧ ¬ ((∃ b, i = .init b) ∧ s.mode ≠ .init) ∧ i ≠ .reserved) := by
  by_cases hloop : loopInstr i = true
  · have hinit : ∀ b, i ≠ .init b := by rintro b rfl; cases hloop
    have hreserved : i ≠ .reserved := by rintro rfl; cases hloop
    rw [exec_loopInstr hloop]
    cases hm : s.mode with
    | init => exact .inl ⟨duringLoop_init _ hm, hloop, rfl⟩
    | run => exact .inr (.inr (.inr ⟨⟨_, duringLoop_run _ hm⟩, by simp, by simpa using hinit, hreserved⟩))
    | halt => exact .inr (.inr (.inr ⟨⟨_, duringLoop_halt _ hm⟩, by simp, by simpa using hinit, hreserved⟩))
  · cases i with
    | f32enc p => exact .inr (.inr (.inr ⟨⟨_, rfl⟩, by simp [loopInstr], by simp, by simp⟩))
    | f32dec b => exact .inr (.inr (.inr ⟨⟨_, rfl⟩, by simp [loopInstr], by simp, by simp⟩))
    | reset => exact .inr (.inr (.inr ⟨⟨_, rfl⟩, by simp [loopInstr], by simp, by simp⟩))
    | reserved => exact .inr (.inr (.inl ⟨rfl, rfl⟩))
    | init b =>
      cases hm : s.mode with
      | init => exact .inr (.inr (.inr ⟨⟨_, reportStartup_init b hm⟩, by simp [loopInstr], by simp, by simp⟩))
      | run => exact .inr (.inl ⟨by simp [exec_init, reportStartup, hm], ⟨b, rfl⟩, by simp⟩)
      | halt => exact .inr (.inl ⟨by simp [exec_init, reportStartup, hm], ⟨b, rfl⟩, by simp⟩)
    | _ => exact absurd rfl hloop

/-- In HALT an instruction other than RESET at most answers on a port (R145). -/
theorem exec_halt_next {i : Instr} {s t : State} (hhalt : s.mode = .halt) (hreset : i ≠ .reset)
    (h : exec i s = .next t) : t = s ∨ ∃ r, t = s.answer r := by
  obtain ⟨_, _, -, hrun, -⟩ | ⟨-, -, ht⟩ | ⟨r, -, ht⟩ | ⟨_, -, hinit, -⟩ | ⟨hi, -⟩ := exec_served_cases h
  · exact absurd (hhalt.symm.trans hrun) (by decide)
  · exact .inl ht
  · exact .inr ⟨r, ht⟩
  · exact absurd (hhalt.symm.trans hinit) (by decide)
  · exact absurd hi hreset

end Sys2Proof.Safety

namespace Sys2Proof

open Machine Safety

/-- Settles O8: what an instruction adds to the requests is what its commands are served by. -/
theorem onlyCommandFramesAreSent : Obligations.OnlyCommandFramesAreSent := by
  unfold Obligations.OnlyCommandFramesAreSent
  intro i s t f hexec hmem
  obtain ⟨x, n, -, -, rfl, -⟩ | ⟨-, -, rfl⟩ | ⟨_, -, rfl⟩ | ⟨_, -, -, rfl⟩ | ⟨-, rfl⟩ := exec_served_cases hexec
  · obtain hold | ⟨v, hv, rfl⟩ := tx_mem_served hmem
    · exact .inl hold
    · exact .inr ⟨rfl, txFrame_len _ v, v, rfl, by simp [hv]⟩
  · exact .inl hmem
  · exact .inl hmem
  · exact .inl hmem
  · exact .inl hmem

/-- Settles O12: the word is the odometry field, whose bytes are the frame's or draws. -/
theorem shortOdometryFrameDrawsTheMissingBytes : Obligations.ShortOdometryFrameDrawsTheMissingBytes := by
  unfold Obligations.ShortOdometryFrameDrawsTheMissingBytes
  intro data s hrun _
  have hodom : exec (.rxOdom data) s = .next (rxOdom Config.params data s) := by rw [exec_rxOdom, duringLoop_run _ hrun]
  exact ⟨odomField data s.draws, hodom, (exec_rxpoll_odom rfl s).trans hodom, fun i hi =>
    ⟨fun _ hb => odomField_byte_supplied _ hi hb, odomField_byte_drawn _ hi⟩⟩

/-- Settles O15: serving writes `MSG.x` alone, and only RESET writes the rest of the record. -/
theorem onlyResetWritesYAndZ : Obligations.OnlyResetWritesYAndZ := by
  unfold Obligations.OnlyResetWritesYAndZ
  intro i s t hexec hreset
  obtain ⟨x, n, -, -, rfl, -⟩ | ⟨-, -, rfl⟩ | ⟨_, -, rfl⟩ | ⟨_, -, -, rfl⟩ | ⟨hi, -⟩ := exec_served_cases hexec
  · exact ⟨rfl, rfl⟩
  · exact ⟨rfl, rfl⟩
  · exact ⟨rfl, rfl⟩
  · exact ⟨rfl, rfl⟩
  · exact absurd hi hreset

/-- Settles O19: in HALT the loop's mode rule answers the state itself. -/
theorem haltIgnoresTheLoop : Obligations.HaltIgnoresTheLoop := by
  unfold Obligations.HaltIgnoresTheLoop
  intro s hhalt
  have hsame : ∀ i, loopInstr i = true → exec i s = .next s := fun i hi => by
    rw [exec_loopInstr hi, duringLoop_halt _ hhalt]
  exact ⟨s.fatal_iff.mpr hhalt, fun v => hsame _ rfl, fun rx => hsame _ rfl, hsame _ rfl, fun data => hsame _ rfl,
    fun f => hsame _ rfl, fun cmds rx => hsame _ rfl⟩

/-- Settles O21: the four kinds of answer exclude each other, and so do their conditions. -/
theorem refusedExactlyOutOfMode : Obligations.RefusedExactlyOutOfMode := by
  unfold Obligations.RefusedExactlyOutOfMode
  intro i s
  obtain ⟨hexec, hloop, hmode⟩ | ⟨hexec, ⟨b, rfl⟩, hmode⟩ | ⟨hexec, rfl⟩ | ⟨⟨t, hexec⟩, hloop, hinit, hreserved⟩ :=
    exec_refused_or_next i s
  · have hreserved : i ≠ .reserved := by rintro rfl; cases hloop
    simp [hexec, hloop, hmode, hreserved]
  · simp [hexec, loopInstr, hmode]
  · simp [hexec, loopInstr]
  · simp only [hexec, hloop, hinit]
    simp [hreserved]

/-- Settles O22: of the ways a step can treat the mode, only a start-up report and RESET move it. -/
theorem modeMovesOnlyByInitAndReset : Obligations.ModeMovesOnlyByInitAndReset := by
  unfold Obligations.ModeMovesOnlyByInitAndReset
  intro i s t hexec hmoved
  obtain hsame | ⟨ok, rfl, hinit, rfl⟩ | hreset := exec_mode_cases hexec
  · exact absurd hsame hmoved
  · cases ok with
    | true => exact .inr (.inl ⟨rfl, hinit, rfl⟩)
    | false => exact .inr (.inr ⟨rfl, hinit, rfl⟩)
  · exact .inl hreset

/-- Settles O23: RESET answers in every mode, and the mode it writes is not HALT. -/
theorem resetRestoresModeAndRecord : Obligations.ResetRestoresModeAndRecord := by
  unfold Obligations.ResetRestoresModeAndRecord
  refine fun s => ⟨rfl, fun t hexec => ?_⟩
  cases hexec
  rfl

/-- Settles O24: each field is the one `State.reset` names. -/
theorem stateAfterReset : Obligations.StateAfterReset := ⟨rfl, rfl, rfl, rfl, rfl, rfl, rfl⟩

/-- Settles O26: the arm of the reserved selector is its refusal. -/
theorem reservedSelectorIsRefused : Obligations.ReservedSelectorIsRefused := fun _ => rfl

/-- Settles O27: serving is all an operation of the loop does, in RUN, and in HALT it does nothing. -/
theorem loopOperationsFrame : Obligations.LoopOperationsFrame := by
  unfold Obligations.LoopOperationsFrame
  intro i s t hloop hexec
  obtain ⟨x, n, -, -, rfl, hkept⟩ | ⟨-, -, rfl⟩ | ⟨_, hno, -⟩ | ⟨_, rfl, -, -⟩ | ⟨rfl, -⟩ := exec_served_cases hexec
  · refine ⟨rfl, rfl, rfl, rfl, rfl, fun hodom hpoll hiter => ?_⟩
    have hnone : pollsOdometry Config.params i = false := by
      rw [Bool.eq_false_iff, ne_eq, pollsOdometry_iff]
      rintro (⟨data, hi⟩ | ⟨f, hi, hid⟩ | ⟨cmds, f, hi, hid⟩)
      · exact hodom data hi
      · exact hpoll f hi hid
      · exact hiter cmds f hi hid
    obtain ⟨rfl, rfl⟩ := hkept hnone
    exact ⟨rfl, rfl⟩
  · exact ⟨rfl, rfl, rfl, rfl, rfl, fun _ _ _ => ⟨rfl, rfl⟩⟩
  · exact absurd (hloop.symm.trans hno) (by decide)
  · cases hloop
  · cases hloop

/-- Settles O28: every list a step writes, it appends to, and a poll answer is one frame at most. -/
theorem outputsAreNeverRetracted : Obligations.OutputsAreNeverRetracted := by
  unfold Obligations.OutputsAreNeverRetracted
  intro i s t hexec
  obtain ⟨x, n, -, -, rfl, -⟩ | ⟨-, -, rfl⟩ | ⟨r, -, rfl⟩ | ⟨_, -, -, rfl⟩ | ⟨-, rfl⟩ := exec_served_cases hexec
  · obtain ⟨hout, htaken⟩ :=
      served_prefix Config.params (iterationOf Config.params i).1 (iterationOf Config.params i).2 x n s
    refine ⟨hout, List.prefix_rfl, htaken, ?_⟩
    rw [served_pubs]
    exact Nat.add_le_add_left Option.length_toList_le _
  · exact ⟨List.prefix_rfl, List.prefix_rfl, List.prefix_rfl, Nat.le_succ _⟩
  · exact ⟨List.prefix_rfl, List.prefix_append _ _, List.prefix_rfl, Nat.le_succ _⟩
  · exact ⟨List.prefix_rfl, List.prefix_rfl, List.prefix_rfl, Nat.le_succ _⟩
  · exact ⟨List.prefix_rfl, List.prefix_rfl, List.prefix_rfl, Nat.le_succ _⟩

/-- Settles O47: an iteration is one serving, and the word is the odometry field. -/
theorem loopWithAShortOdometryFrame : Obligations.LoopWithAShortOdometryFrame := by
  unfold Obligations.LoopWithAShortOdometryFrame
  intro cmds f s hrun hid _
  have hodom : f.id = Config.params.odomId := hid
  refine ⟨odomField f.data s.draws, ?_, fun i hi =>
    ⟨fun _ hb => odomField_byte_supplied _ hi hb, odomField_byte_drawn _ hi⟩⟩
  rw [exec_loop_served cmds (some f) hrun]
  simp [served, polledX, polledDraws, hodom, missingBytes, Frame.len]

end Sys2Proof

/-! The stimuli as bytes: what each parser reads from what the encoder writes, and what it refuses. -/

namespace Sys2Proof

open Machine

theorem takeBytes4_list (b : Bytes 4) (rest : List Byte) : takeBytes4 (b.list ++ rest) = .ok (b, rest) := by
  obtain ⟨b0, b1, b2, b3, rfl⟩ := b.exists_four
  rfl

theorem takeWord_f32enc (v : Bits32) (rest : List Byte) : takeWord ((f32enc v).list ++ rest) = .ok (v, rest) := by
  simp only [takeWord, takeBytes4_list, f32dec_f32enc]

theorem takePayload_encoded (data : Payload) (rest : List Byte) :
    takePayload (BitVec.ofNat 8 data.bytes.length :: (data.bytes ++ rest)) = .ok (data, rest) := by
  have hlen := data.len_le
  have hn : (BitVec.ofNat 8 data.bytes.length).toNat = data.bytes.length := by
    rw [BitVec.toNat_ofNat, Nat.mod_eq_of_lt (by omega)]
  simp [takePayload, hn, hlen]

/-- A poll word with its four top bits clear has no marker and no padding bit (R64). -/
theorem pollWordError_none {w : BitVec 16} (h : ∀ k < 4, w.getLsbD (12 + k) = false) : pollWordError w = none := by
  have h0 : w.getLsbD 12 = false := h 0 (by decide)
  have h1 : w.getLsbD 13 = false := h 1 (by decide)
  have h2 : w.getLsbD 14 = false := h 2 (by decide)
  have h3 : w.getLsbD 15 = false := h 3 (by decide)
  simp only [pollWordError, h0, h1, h2, h3, Bool.or_self, Bool.false_eq_true, if_false]

theorem pollWordError_pollWord (id : Id) : pollWordError (pollWord id) = none :=
  pollWordError_none fun k _ => by
    rw [pollWord_getLsbD, decide_eq_false (by omega), BitVec.getLsbD_of_ge id _ (by omega), Bool.or_self]

/-- The ID stands in the low eleven bits of its poll word (R69). -/
theorem pollWord_id (id : Id) : (pollWord id).extractLsb' 0 11 = id := by
  ext k hk
  simp [pollWord_getLsbD, show k ≠ 11 by omega, BitVec.getLsbD_eq_getElem hk]

theorem takeRx_encodeRx (rx : Option Frame) (rest : List Byte) : takeRx (encodeRx rx ++ rest) = .ok (rx, rest) := by
  cases rx with
  | none => rfl
  | some f =>
    have havail : (pollWord f.id).getLsbD 11 = true := by simp [pollWord_getLsbD]
    simp only [encodeRx, List.cons_append, takeRx, wordOf_bytes, pollWordError_pollWord, havail, if_true, Frame.len,
      takePayload_encoded, pollWord_id]

theorem takeCmds_encodeCmds (cmds : List Bits32) (rest : List Byte) :
    takeCmds (encodeCmds cmds ++ rest) = .ok (cmds, rest) := by
  induction cmds with
  | nil => exact takeCmds_end rest
  | cons v vs ih =>
    have hbytes : encodeCmds (v :: vs) ++ rest =
        1 :: v.extractLsb' 0 8 :: v.extractLsb' 8 8 :: v.extractLsb' 16 8 :: v.extractLsb' 24 8 ::
          (encodeCmds vs ++ rest) := rfl
    have hword : f32dec ⟨[v.extractLsb' 0 8, v.extractLsb' 8 8, v.extractLsb' 16 8, v.extractLsb' 24 8], rfl⟩ = v :=
      f32dec_f32enc v
    rw [hbytes, takeCmds_more, ih]
    simp only [hword]

/-- LOOP's commands are read first, and the poll answer decides the rest. -/
theorem takeIteration_encodeCmds (cmds : List Bits32) (bs : List Byte) :
    takeIteration (encodeCmds cmds ++ bs) =
      (takeRx bs).map (fun r => ((cmds, r.1), r.2)) := by
  rw [takeIteration, takeCmds_encodeCmds]
  cases h : takeRx bs with
  | ok r => simp [h, Except.map]
  | error e => simp [h, Except.map]

theorem takeBit_encoded (canOk : Bool) (rest : List Byte) :
    takeBit ((if canOk then 1 else 0) :: rest) = .ok (canOk, rest) := by
  cases canOk <;> rfl

theorem rxCase_odom {p : Params} {f : Frame} (h : f.id = p.odomId) : rxCase p (some f) = .rxOdom f.data := if_pos h

theorem rxCase_other {p : Params} {f : Frame} (h : f.id ≠ p.odomId) : rxCase p (some f) = .rxOther f := if_neg h

/-- The decoder reads back every well-formed instruction, whatever number of zero bytes follows. -/
theorem decode_encode_zeros (i : Instr) (n : Nat) (hwf : i.wf = true) :
    decode ⟨(encode i).format, (encode i).bytes ++ List.replicate n 0⟩ = .ok i := by
  cases i with
  | f32enc p =>
    change finish .f32enc (takeWord ((f32enc p).list ++ _)) = _
    rw [takeWord_f32enc, finish_zeros]
  | f32dec b =>
    change finish .f32dec (takeBytes4 (b.list ++ _)) = _
    rw [takeBytes4_list, finish_zeros]
  | txcmd v =>
    change finish .txcmd (takeWord ((f32enc v).list ++ _)) = _
    rw [takeWord_f32enc, finish_zeros]
  | rxpoll rx =>
    change finish .rxpoll (takeRx (encodeRx rx ++ _)) = _
    rw [takeRx_encodeRx, finish_zeros]
  | rxNone =>
    change finish (rxCase Config.params) (takeRx (encodeRx none ++ _)) = _
    rw [takeRx_encodeRx, finish_zeros, rxCase]
  | rxOdom data =>
    change finish (rxCase Config.params) (takeRx (encodeRx (some ⟨Config.params.odomId, data⟩) ++ _)) = _
    rw [takeRx_encodeRx, finish_zeros, rxCase_odom rfl]
  | rxOther f =>
    have hid : f.id ≠ Config.params.odomId := by simpa [Instr.wf] using hwf
    change finish (rxCase Config.params) (takeRx (encodeRx (some f) ++ _)) = _
    rw [takeRx_encodeRx, finish_zeros, rxCase_other hid]
  | init canOk =>
    change finish .init (takeBit ((if canOk then 1 else 0) :: List.replicate n 0)) = _
    rw [takeBit_encoded, finish_zeros]
  | loop cmds rx =>
    change finish (fun x => .loop x.1 x.2) (takeIteration (encodeCmds cmds ++ encodeRx rx ++ _)) = _
    rw [List.append_assoc, takeIteration_encodeCmds, takeRx_encodeRx, Except.map, finish_zeros]
  | reset => exact finish_zeros (fun _ => Instr.reset) () n
  | reserved => exact finish_zeros (fun _ => Instr.reserved) () n

theorem decode_encode {i : Instr} (hwf : i.wf = true) : decode (encode i) = .ok i := by
  simpa using decode_encode_zeros i 0 hwf

/-- What ends a reading without refusal is what was read. -/
theorem finish_ok {α : Type} {f : α → Instr} {r : Parsed α} {i : Instr} (h : finish f r = .ok i) : ∃ x, i = f x := by
  cases r with
  | error e => cases h
  | ok xr =>
    by_cases hz : xr.2.all (· == 0) = true
    · rw [finish, if_pos hz] at h
      cases h
      exact ⟨xr.1, rfl⟩
    · rw [finish, if_neg hz] at h
      cases h

/-- The sub-case a poll answer selects is well formed: RX.OTHER is left the IDs that RX.ODOM has not taken (R69). -/
theorem rxCase_wf (rx : Option Frame) : (rxCase Config.params rx).wf = true := by
  cases rx with
  | none => rfl
  | some f =>
    by_cases hid : f.id = Config.params.odomId
    · rw [rxCase_odom hid]
      rfl
    · rw [rxCase_other hid]
      simpa [Instr.wf] using hid

theorem decode_wf {st : Stimulus} {i : Instr} (h : decode st = .ok i) : i.wf = true := by
  obtain ⟨format, bytes⟩ := st
  cases format with
  | rxsel =>
    obtain ⟨rx, rfl⟩ := finish_ok h
    exact rxCase_wf rx
  | stim =>
    cases bytes with
    | nil => cases h
    | cons sel rest =>
      change decodeStim (sel :: rest) = .ok i at h
      by_cases hpad : sel.extractLsb' 3 5 ≠ 0
      · rw [decodeStim, if_pos hpad] at h
        cases h
      · rw [decodeStim, if_neg hpad] at h
        split at h <;> (obtain ⟨x, rfl⟩ := finish_ok h; rfl)

/-- A poll answer that is no frame is refused by its reason wherever it stands. -/
theorem decode_bad_answer {answer : List Byte} {e : DecodeError} (h : takeRx answer = .error e) (cmds : List Bits32)
    {st : Stimulus}
    (hst : st ∈ [⟨.rxsel, answer⟩, ⟨.stim, 0x03 :: answer⟩, ⟨.stim, 0x05 :: (encodeCmds cmds ++ answer)⟩]) :
    decode st = .error e := by
  simp only [List.mem_cons, List.not_mem_nil, or_false] at hst
  obtain rfl | rfl | rfl := hst
  · change finish (rxCase Config.params) (takeRx answer) = _
    rw [h, finish]
  · change finish .rxpoll (takeRx answer) = _
    rw [h, finish]
  · change finish (fun x => .loop x.1 x.2) (takeIteration (encodeCmds cmds ++ answer)) = _
    rw [takeIteration_encodeCmds, h, Except.map, finish]

/-- A marker in the poll word refuses the poll answer (R64, D10). -/
theorem takeRx_wordError {lo hi : Byte} {e : DecodeError} (h : pollWordError (wordOf lo hi) = some e)
    (rest : List Byte) : takeRx (lo :: hi :: rest) = .error e := by
  simp only [takeRx, h]

/-- A waiting frame that announces more than 8 bytes is refused (R64). -/
theorem takeRx_tooLong {lo hi n : Byte} (hword : pollWordError (wordOf lo hi) = none)
    (havail : (wordOf lo hi).getLsbD 11 = true) (hn : 8 < n.toNat) (rest : List Byte) :
    takeRx (lo :: hi :: n :: rest) = .error .payloadTooLong := by
  simp [takeRx, hword, havail, takePayload, show ¬ n.toNat ≤ 8 by omega]

/-- Settles O31: each parser reads back what the encoder wrote, and zero bytes may follow. -/
theorem decodeOfEncodeIsTheInstruction : Obligations.DecodeOfEncodeIsTheInstruction :=
  fun i n hwf => ⟨decode_encode hwf, decode_encode_zeros i n hwf⟩

/-- Settles O32: eleven closed facts, one for each row. -/
theorem selectorWordsDecode : Obligations.SelectorWordsDecode := by
  unfold Obligations.SelectorWordsDecode
  decide

/-- Settles O34: only RX.OTHER can be ill formed, and the decoder gives it no odometry ID. -/
theorem decodedInstructionsAreWellFormed : Obligations.DecodedInstructionsAreWellFormed := fun _ _ h => decode_wf h

/-- The two bytes of an RXSEL word, with no marker above it, make the word. -/
theorem wordOf_rxsel (w : BitVec 12) :
    wordOf (w.extractLsb' 0 8) ((w.extractLsb' 8 4).setWidth 8) = w.setWidth 16 := by
  apply BitVec.eq_of_getLsbD_eq
  intro k hk
  rw [wordOf_getLsbD]
  by_cases hlow : k < 8
  · simp [hlow, hk]
  · by_cases hmid : k < 12
    · simp [hlow, hk, show k - 8 < 8 by omega, show k - 8 < 4 by omega, show 8 + (k - 8) = k by omega]
    · simp [hlow, show ¬ k - 8 < 4 by omega, BitVec.getLsbD_of_ge w k (by omega)]

/-- What the decoder reads of an RXSEL word with a payload of length 0: `avail` decides whether there is a frame. -/
theorem decode_rxsel (w : BitVec 12) :
    decode ⟨.rxsel, [w.extractLsb' 0 8, (w.extractLsb' 8 4).setWidth 8, 0]⟩ =
      .ok (if w.getLsbD 11 then rxCase Config.params (some ⟨w.extractLsb' 0 11, ⟨[], by decide⟩⟩) else .rxNone) := by
  have hword : pollWordError (w.setWidth 16) = none := pollWordError_none fun k _ => by simp
  have hid : (w.setWidth 16).extractLsb' 0 11 = w.extractLsb' 0 11 := by
    ext k hk
    simp [show k < 16 by omega]
  have havail : (w.setWidth 16).getLsbD 11 = w.getLsbD 11 := by simp
  change finish (rxCase Config.params) (takeRx _) = _
  simp only [takeRx, wordOf_rxsel, hword, havail, hid]
  cases w.getLsbD 11 with
  | true => rfl
  | false => rfl

/-- An RXSEL word with `avail` set is the poll word of its ID (R69). -/
theorem setWidth_eq_pollWord {w : BitVec 12} (h : w.getLsbD 11 = true) :
    w.setWidth 16 = pollWord (w.extractLsb' 0 11) := by
  apply BitVec.eq_of_getLsbD_eq
  intro k hk
  rw [pollWord_getLsbD, BitVec.getLsbD_setWidth, BitVec.getLsbD_extractLsb', decide_eq_true hk, Bool.true_and,
    Nat.zero_add]
  obtain hlow | rfl | hhigh : k < 11 ∨ k = 11 ∨ 12 ≤ k := by omega
  · simp [hlow, hlow.ne]
  · simp [h]
  · simp [BitVec.getLsbD_of_ge w k hhigh, show ¬ k < 11 by omega, show k ≠ 11 by omega]

/-- With `avail` set, the table's row is that of the sub-case the frame's ID selects (R69). -/
theorem tableMnemonic_pollWord (f : Frame) :
    tableMnemonic .rxsel (pollWord f.id) = some (rxCase Config.params (some f)).mnemonic := by
  by_cases hid : f.id = Config.params.odomId
  · rw [rxCase_odom hid, hid]
    rfl
  · have hwf : (Instr.rxOther f).wf = true := by simpa [Instr.wf] using hid
    rw [rxCase_other hid]
    simpa [encode, encodeRx, selectorWord, wordOf_bytes] using Laws.TableRow.rxOther f hwf

/-- With `avail` clear, the table's row is RX.NONE, whatever the ID bits (R69). -/
theorem tableMnemonic_none {w : BitVec 12} (h : w.getLsbD 11 = false) :
    tableMnemonic .rxsel (w.setWidth 16) = some "RX.NONE" := by
  have hmask : w.setWidth 16 &&& 0x800#16 = 0#16 := by
    have havail : (w.setWidth 16).getLsbD 11 = false := by simpa using h
    rw [(by decide : 0x800#16 = BitVec.twoPow 16 11), BitVec.and_twoPow, havail]
    rfl
  simp [tableMnemonic, opcodeTable, hmask]

/-- Settles O33: the three clauses are the three cases of `rxCase` by `avail` and the ID, and the word with `avail` set is
0xC03 exactly when that ID is the odometry ID. -/
theorem pollWordsDispatchByTheTable : Obligations.PollWordsDispatchByTheTable := by
  unfold Obligations.PollWordsDispatchByTheTable
  intro w st
  have hread := decode_rxsel w
  cases havail : w.getLsbD 11 with
  | false =>
    rw [havail, if_neg Bool.false_ne_true] at hread
    have hword : w ≠ 0xC03 := by rintro rfl; cases havail
    exact ⟨_, hread, tableMnemonic_none havail, fun _ => rfl, fun h => absurd h hword, fun h => absurd h (by decide)⟩
  | true =>
    rw [havail, if_pos rfl] at hread
    refine ⟨_, hread, ?_, fun h => absurd h (by decide), ?_, fun _ hword => ?_⟩
    · rw [setWidth_eq_pollWord havail]
      exact tableMnemonic_pollWord ⟨w.extractLsb' 0 11, _⟩
    · rintro rfl
      exact ⟨_, rxCase_odom (by decide), rfl⟩
    · have hid : w.extractLsb' 0 11 ≠ Config.params.odomId := by
        intro hid
        have hwide : w.setWidth 16 = (0xC03#12).setWidth 16 := by
          rw [setWidth_eq_pollWord havail, hid]
          decide
        exact hword (by simpa using congrArg (BitVec.setWidth 12) hwide)
      exact ⟨_, rxCase_other hid, rfl, rfl⟩

/-- Settles O35: the three carriers refuse what their poll answer is refused for. -/
theorem whatIsNoFrameIsRefused : Obligations.WhatIsNoFrameIsRefused := by
  unfold Obligations.WhatIsNoFrameIsRefused
  intro lo hi n rest cmds st w answer hst
  refine ⟨fun hext => ?_, fun hext hrem => ?_, fun htop havail hn => ?_⟩
  · have herror : pollWordError (wordOf lo hi) = some .extendedFrame := by rw [pollWordError, if_pos hext]
    exact decode_bad_answer (takeRx_wordError herror _) cmds hst
  · have herror : pollWordError (wordOf lo hi) = some .remoteFrame := by
      rw [pollWordError, if_neg (ne_true_of_eq_false hext), if_pos hrem]
    exact decode_bad_answer (takeRx_wordError herror _) cmds hst
  · have hclear : ∀ k < 4, w.getLsbD (12 + k) = false := fun k hk => by
      simpa [hk] using congrArg (fun v : BitVec 4 => v.getLsbD k) htop
    exact decode_bad_answer (takeRx_tooLong (pollWordError_none hclear) havail hn rest) cmds hst

end Sys2Proof

/-! The step: what it takes off the trace, and that it keeps the invariant. -/

namespace Sys2Proof.Machine

/-- A stimulus that decodes is run in the state without it. -/
theorem step_decoded {s : State} {st : Stimulus} {rest : List Stimulus} {i : Instr} (hs : s.stimuli = st :: rest)
    (hd : decode st = .ok i) : step s = exec i { s with stimuli := rest } := by
  simp only [step, fetch, hs, hd]

/-- A stimulus that does not decode is refused by the decoder's reason (R71). -/
theorem step_undecoded {s : State} {st : Stimulus} {rest : List Stimulus} {e : DecodeError} (hs : s.stimuli = st :: rest)
    (hd : decode st = .error e) : step s = .refused (.badStimulus e) := by
  simp only [step, fetch, hs, hd]

/-- An iteration with nothing offered, out of mode INIT, changes nothing (R144, R145). -/
theorem exec_loop_idle {s : State} (hmode : s.mode ≠ .init) : exec (.loop [] none) s = .next s := by
  cases hm : s.mode with
  | init => exact absurd hm hmode
  | run =>
    rw [exec_loop, duringLoop_run _ hm]
    rfl
  | halt => rw [exec_loop, duringLoop_halt _ hm]

/-- With nothing offered the block waits, in every mode (log entry 12). -/
theorem step_idle {s : State} (hs : s.stimuli = []) : step s = .next s := by
  by_cases hm : s.mode = .init
  · simp only [step, fetch, hs, hm, if_true]
  · simp only [step, fetch, hs, hm, if_false]
    exact exec_loop_idle hm

end Sys2Proof.Machine

namespace Sys2Proof.Safety

open Sys2Proof.Machine

/-- Where a payload has the field of R66, that is the float decoded from it, and no draw enters (R122). -/
theorem fullField_eq_some {data : Payload} {w : Bits32} (h : fullField data = some w) (n : Nat) :
    odomField data n = w := by
  obtain ⟨bytes, hlen⟩ := data
  unfold fullField at h
  split at h
  · next b0 b1 b2 b3 b4 b5 b6 b7 hbytes =>
    cases h
    subst hbytes
    exact odomField_full b0 b1 b2 b3 b4 b5 b6 b7 hlen n
  · cases h

/-- Only an odometry frame moves `MSG.x` (R22). -/
theorem polledX_cases (p : Params) (rx : Option Frame) (s : State) :
    polledX p rx s = s.msg.x ∨ ∃ f, rx = some f ∧ f.id = p.odomId := by
  by_cases hodom : ∃ f, rx = some f ∧ f.id = p.odomId
  · exact .inr hodom
  · exact .inl (polled_unchanged s fun f hf hid => hodom ⟨f, hf, hid⟩).1

/-- The outputs of one serving answer its inputs one for one, in order (R110, R128). -/
theorem served_answers {s : State} (hy : s.msg.y = Config.params.msgDefault) (hz : s.msg.z = Config.params.msgDefault)
    (h : List.Forall₂ (Answers Config.params) s.taken s.out) (cmds : List Bits32) (rx : Option Frame) (n : Nat) :
    List.Forall₂ (Answers Config.params) (served Config.params cmds rx (polledX Config.params rx s) n s).taken
      (served Config.params cmds rx (polledX Config.params rx s) n s).out := by
  have hcmds : List.Forall₂ (Answers Config.params) (cmds.map .cmd)
      (cmds.map (fun v => .tx (txFrame Config.params v))) := by
    rw [List.forall₂_map_left_iff, List.forall₂_map_right_iff, List.forall₂_same]
    exact fun _ _ => rfl
  have hrx : List.Forall₂ (Answers Config.params) (rx.toList.map .frame)
      (rx.toList.map (fun _ => .pub { s.msg with x := polledX Config.params rx s })) := by
    cases rx with
    | none => exact .nil
    | some f =>
      refine .cons ⟨hy, hz, fun hid w hw => ?_⟩ .nil
      rw [← fullField_eq_some hw s.draws]
      exact if_pos hid
  exact List.rel_append (List.rel_append h hcmds) hrx

/-- Serving in RUN keeps the invariant. -/
theorem served_inv {s : State} (hinv : Inv s) (hrun : s.mode = .run) (cmds : List Bits32) (rx : Option Frame) (n : Nat) :
    Inv (served Config.params cmds rx (polledX Config.params rx s) n s) := by
  obtain ⟨hy, hz, -, hx, hanswers⟩ := hinv
  refine ⟨hy, hz, fun hmode => absurd hrun hmode, fun hmoved => ?_, served_answers hy hz hanswers cmds rx n⟩
  obtain hkept | ⟨f, rfl, hid⟩ := polledX_cases Config.params rx s
  · obtain ⟨f, hf, hid⟩ := hx (hkept ▸ hmoved)
    exact ⟨f, by simp [hf], hid⟩
  · exact ⟨f, by simp, hid⟩

/-- Every well-formed instruction keeps the invariant. -/
theorem exec_inv {i : Instr} {s t : State} (hwf : i.wf = true) (hinv : Inv s) (h : exec i s = .next t) : Inv t := by
  obtain ⟨-, hrun, rfl⟩ | ⟨-, -, rfl⟩ | ⟨_, -, rfl⟩ | ⟨_, -, rfl⟩ | ⟨ok, -, hinit, rfl⟩ | ⟨-, rfl⟩ := exec_next_cases h
  · rw [loopEffect_eq_polled hwf]
    exact served_inv hinv hrun _ _ _
  · exact hinv
  · exact hinv
  · exact hinv
  · obtain ⟨hy, hz, hout, hx, hanswers⟩ := hinv
    exact ⟨hy, hz, fun _ => hout (by simp [hinit]), hx, hanswers⟩
  · obtain ⟨-, -, -, -, hanswers⟩ := hinv
    exact ⟨rfl, rfl, fun _ => rfl, fun hmoved => absurd rfl hmoved, hanswers⟩

end Sys2Proof.Safety

namespace Sys2Proof

open Machine Safety

/-- Settles O29: the record is at its defaults and both lists are empty. -/
theorem invariantHoldsAtReset : Obligations.InvariantHoldsAtReset :=
  ⟨rfl, rfl, fun _ => rfl, fun hmoved => absurd rfl hmoved, .nil⟩

/-- Settles O30: a step waits, iterates with nothing offered, or runs a decoded instruction, which is well formed; the
invariant does not speak of the trace. -/
theorem everyStepKeepsTheInvariant : Obligations.EveryStepKeepsTheInvariant := by
  unfold Obligations.EveryStepKeepsTheInvariant
  intro s t hinv hstep
  obtain ⟨-, -, rfl⟩ | ⟨-, -, hexec⟩ | ⟨st, rest, i, -, hdecode, hexec⟩ := step_next_cases hstep
  · exact hinv
  · exact exec_inv rfl hinv hexec
  · have hrest : Inv { s with stimuli := rest } := hinv
    exact exec_inv (decode_wf hdecode) hrest hexec

/-- Settles O36: the fetch takes the head of the trace and decodes it. -/
theorem stepRunsTheDecodedInstruction : Obligations.StepRunsTheDecodedInstruction := fun _ _ _ _ => step_decoded

/-- Settles O37: the fetch hands on the decoder's reason. -/
theorem stepRefusesWhatDoesNotDecode : Obligations.StepRefusesWhatDoesNotDecode := fun _ _ _ _ => step_undecoded

/-- Settles O38: in mode INIT the block waits, and out of it the iteration with nothing offered has no effect. -/
theorem stepWithNothingOfferedChangesNothing : Obligations.StepWithNothingOfferedChangesNothing := fun _ => step_idle

/-- Settles O39: the fetch drops the head, and no instruction touches what is left. -/
theorem stepTakesOneStimulus : Obligations.StepTakesOneStimulus := by
  unfold Obligations.StepTakesOneStimulus
  intro s t hstep
  obtain ⟨hs, -, rfl⟩ | ⟨hs, -, hexec⟩ | ⟨st, rest, i, hs, -, hexec⟩ := step_next_cases hstep
  · rw [hs, List.tail_nil]
  · rw [exec_stimuli hexec, hs, List.tail_nil]
  · rw [exec_stimuli hexec, hs, List.tail_cons]

/-- Settles O46: RX.OTHER with the odometry ID is ill formed, so the decoder, which reads well-formed instructions only,
never gives it; what it does in RUN does not depend on the ID. -/
theorem illFormedOtherFrameRepublishesToo : Obligations.IllFormedOtherFrameRepublishesToo := by
  unfold Obligations.IllFormedOtherFrameRepublishesToo
  intro f s hrun hid
  have hwf : (Instr.rxOther f).wf = false := by simp [Instr.wf, Config.params, hid]
  refine ⟨hwf, fun st hdecode => ?_, ?_⟩
  · exact absurd ((decode_wf hdecode).symm.trans hwf) (by decide)
  · rw [exec_rxOther, duringLoop_run _ hrun, rxOther_eq]

end Sys2Proof

/-! Runs over a trace: the one induction, and what it carries from reset and through HALT. -/

namespace Sys2Proof.Safety

open Sys2Proof.Machine

/-- A run goes on from the state its first instruction answers. -/
theorem runEvents_cons {i : Instr} {s u : State} (h : exec i s = .next u) (is : List Instr) :
    runEvents (i :: is) s = runEvents is u := by
  simp only [runEvents, h]

/-- A run that goes through has an answer of its first instruction to go on from. -/
theorem runEvents_cons_next {i : Instr} {is : List Instr} {s t : State} (h : runEvents (i :: is) s = .next t) :
    ∃ u, exec i s = .next u ∧ runEvents is u = .next t := by
  cases hexec : exec i s with
  | next u => exact ⟨u, rfl, (runEvents_cons hexec is).symm.trans h⟩
  | fault r => cases r
  | refused r => simp only [runEvents, hexec] at h; cases h

/-- What every instruction of a trace keeps holds after the run over it. -/
theorem runEvents_keeps {P : State → Prop} {is : List Instr}
    (hstep : ∀ i ∈ is, ∀ s t, P s → exec i s = .next t → P t) {s t : State} (hs : P s)
    (h : runEvents is s = .next t) : P t := by
  induction is generalizing s with
  | nil => cases h; exact hs
  | cons i is ih =>
    obtain ⟨u, hexec, hrest⟩ := runEvents_cons_next h
    exact ih (fun j hj => hstep j (List.mem_cons_of_mem i hj)) (hstep i List.mem_cons_self s u hs hexec) hrest

/-- `u` is in HALT, with the record, outputs, inputs taken and draws of `s`. -/
def HaltedAs (s u : State) : Prop :=
  u.mode = .halt ∧ u.msg = s.msg ∧ u.out = s.out ∧ u.taken = s.taken ∧ u.draws = s.draws

/-- Every instruction but RESET leaves HALT as it is (R145). -/
theorem exec_haltedAs {i : Instr} {s u v : State} (hreset : i ≠ .reset) (hu : HaltedAs s u) (h : exec i u = .next v) :
    HaltedAs s v := by
  obtain rfl | ⟨r, rfl⟩ := exec_halt_next hu.1 hreset h
  · exact hu
  · exact hu

/-- The record stays at its defaults where no odometry frame is polled (R22, R180). -/
theorem exec_default_of_not_polls {i : Instr} {s t : State} (hpoll : pollsOdometry Config.params i = false)
    (hs : s.msg = Msg.default Config.params) (h : exec i s = .next t) : t.msg = Msg.default Config.params := by
  obtain hsame | rfl | ⟨-, hpolls⟩ := exec_msg_cases h
  · exact hsame.trans hs
  · cases h; rfl
  · exact absurd (hpoll.symm.trans hpolls) (by decide)

/-- Until a start-up succeeds the loop does not run, and the record stays at its defaults (R141, R145). -/
theorem exec_default_of_not_started {i : Instr} {s t : State} (hi : i ≠ .init true)
    (hs : s.mode ≠ .run ∧ s.msg = Msg.default Config.params) (h : exec i s = .next t) :
    t.mode ≠ .run ∧ t.msg = Msg.default Config.params := by
  obtain ⟨hmode, hmsg⟩ := hs
  obtain ⟨_, _, -, hrun, -⟩ | ⟨-, -, rfl⟩ | ⟨_, -, rfl⟩ | ⟨ok, rfl, -, rfl⟩ | ⟨-, rfl⟩ := exec_served_cases h
  · exact absurd hrun hmode
  · exact ⟨hmode, hmsg⟩
  · exact ⟨hmode, hmsg⟩
  · cases ok with
    | true => exact absurd rfl hi
    | false => exact ⟨by simp, hmsg⟩
  · exact ⟨by simp, rfl⟩

end Sys2Proof.Safety

namespace Sys2Proof

open Machine Safety

/-- Settles O20, by the induction over the run. -/
theorem haltLastsUntilReset : Obligations.HaltLastsUntilReset := by
  unfold Obligations.HaltLastsUntilReset
  intro is s t hhalt hreset hrun
  have hkeeps : ∀ i ∈ is, ∀ u v, HaltedAs s u → exec i u = .next v → HaltedAs s v :=
    fun i hi _ _ => exec_haltedAs fun heq => hreset (heq ▸ hi)
  exact runEvents_keeps hkeeps ⟨hhalt, rfl, rfl, rfl, rfl⟩ hrun

/-- Settles O25: RESET leaves mode INIT, where start-up answers and the loop is refused. -/
theorem startUpComesBetweenResetAndTheLoop : Obligations.StartUpComesBetweenResetAndTheLoop := by
  unfold Obligations.StartUpComesBetweenResetAndTheLoop
  refine fun s => ⟨⟨_, rfl, rfl, rfl, rfl⟩, ⟨_, rfl, rfl, rfl, rfl⟩, fun i hloop => ?_⟩
  have hreset : exec .reset s = .next (resetBlock Config.params s) := rfl
  have hexec : exec i (resetBlock Config.params s) = .refused .loopNotStarted := by
    rw [exec_loopInstr hloop, duringLoop_init _ rfl]
  rw [runEvents_cons hreset]
  simp only [runEvents, hexec]

/-- Settles O45: RESET sets the defaults, and each hypothesis is one that every later instruction keeps them under; the third
clause is the first one turned round. -/
theorem recordStaysAtDefaultUntilOdometry : Obligations.RecordStaysAtDefaultUntilOdometry := by
  unfold Obligations.RecordStaysAtDefaultUntilOdometry
  intro is s t hrun
  obtain ⟨u, hreset, hrest⟩ := runEvents_cons_next hrun
  cases hreset
  have hnoPoll : (∀ i ∈ is, pollsOdometry Config.params i = false) → t.msg = Msg.default Config.params := fun hpoll =>
    runEvents_keeps (P := fun u => u.msg = Msg.default Config.params)
      (fun i hi _ _ => exec_default_of_not_polls (hpoll i hi)) rfl hrest
  refine ⟨hnoPoll, fun hstart => ?_, fun hmoved => ?_⟩
  · have hkept := runEvents_keeps (P := fun u => u.mode ≠ .run ∧ u.msg = Msg.default Config.params)
      (fun i hi _ _ => exec_default_of_not_started fun heq => hstart (heq ▸ hi)) ⟨by simp, rfl⟩ hrest
    exact hkept.2
  · by_contra hnone
    have hdefault := hnoPoll fun i hi => Bool.eq_false_iff.mpr fun hpoll => hnone ⟨i, hi, hpoll⟩
    exact hmoved (congrArg Msg.x hdefault)

/-- Settles O44: a line's frame is there exactly when its bytes are at most 8; and LOOP with one command in RUN serves it. -/
theorem traceLinesAreIterations : Obligations.TraceLinesAreIterations := by
  unfold Obligations.TraceLinesAreIterations
  intro p w ws id bs data
  refine ⟨rfl, rfl, rfl, fun hlen => ?_, fun hlen => ?_, fun s hrun => ?_⟩
  · have hframe : frameOf p id bs = some ⟨id, ⟨data, hlen⟩⟩ := dif_pos hlen
    simp [Line.instr, PollForm.answer, hframe]
  · have hframe : frameOf p id bs = none := dif_neg (Nat.not_le.mpr hlen)
    simp [Line.instr, PollForm.answer, hframe]
  · exact ⟨_, _, rfl, exec_loop_served _ none hrun, by simp⟩

end Sys2Proof

/-! The machine over an encoded trace: no meaning reads the trace, so a step is the instruction it decodes to. -/

namespace Sys2Proof.Machine

/-- `s` with `l` as the trace still to come. -/
def State.offer (s : State) (l : List Stimulus) : State := { s with stimuli := l }

/-- An answer with `l` as the trace its state leaves still to come. -/
def offerNext (l : List Stimulus) : Answer → Answer
  | .next t => .next (t.offer l)
  | .fault r => .fault r
  | .refused r => .refused r

theorem loopEffect_offer (p : Params) (i : Instr) (s : State) (l : List Stimulus) :
    loopEffect p i (s.offer l) = (loopEffect p i s).offer l := by
  cases i with
  | rxpoll rx =>
    simp only [loopEffect, rxPoll_eq_served]
    rfl
  | loop cmds rx =>
    simp only [loopEffect, loopIteration_eq_served]
    rfl
  | _ => rfl

theorem duringLoop_offer {act : State → State} (hact : ∀ s l, act (s.offer l) = (act s).offer l) (s : State)
    (l : List Stimulus) : duringLoop act (s.offer l) = offerNext l (duringLoop act s) := by
  have hmode : (s.offer l).mode = s.mode := rfl
  cases hm : s.mode with
  | init => rw [duringLoop_init _ (hmode.trans hm), duringLoop_init _ hm, offerNext]
  | run => rw [duringLoop_run _ (hmode.trans hm), duringLoop_run _ hm, offerNext, hact]
  | halt => rw [duringLoop_halt _ (hmode.trans hm), duringLoop_halt _ hm, offerNext]

/-- No meaning reads the trace: what an instruction answers does not depend on it, and leaves it (R33). -/
theorem exec_offer (i : Instr) (s : State) (l : List Stimulus) : exec i (s.offer l) = offerNext l (exec i s) := by
  by_cases hloop : loopInstr i = true
  · rw [exec_loopInstr hloop, exec_loopInstr hloop]
    exact duringLoop_offer (loopEffect_offer _ i) s l
  · cases i with
    | init ok =>
      have hmode : (s.offer l).mode = s.mode := rfl
      cases hm : s.mode with
      | init => rw [exec_init, exec_init, reportStartup_init ok (hmode.trans hm), reportStartup_init ok hm]; rfl
      | run => simp only [exec_init, reportStartup, hmode, hm, offerNext]
      | halt => simp only [exec_init, reportStartup, hmode, hm, offerNext]
    | f32enc p => rfl
    | f32dec b => rfl
    | reset => rfl
    | reserved => rfl
    | _ => exact absurd rfl hloop

end Sys2Proof.Machine

namespace Sys2Proof

open Machine Safety

/-- Over a trace of encodings, each step is the instruction that was encoded, in the state with the rest of the trace. -/
theorem run_offer_encoded (is : List Instr) (rest : List Stimulus) (s : State) (hwf : ∀ i ∈ is, i.wf = true) :
    core.run is.length (s.offer (is.map encode ++ rest)) = runEvents is (s.offer rest) := by
  induction is generalizing s with
  | nil => rfl
  | cons i is ih =>
    have hstep : core.step (s.offer ((i :: is).map encode ++ rest)) =
        offerNext (is.map encode ++ rest) (exec i s) :=
      (step_decoded rfl (decode_encode (hwf i List.mem_cons_self))).trans (exec_offer i s _)
    simp only [List.length_cons, Host.Core.run, hstep, runEvents, exec_offer i s rest]
    cases exec i s with
    | next u => exact ih u fun j hj => hwf j (List.mem_cons_of_mem i hj)
    | fault r => rfl
    | refused r => rfl

/-- Settles O40, by induction over the instructions. -/
theorem machineRunsTheEncodedTrace : Obligations.MachineRunsTheEncodedTrace := run_offer_encoded

end Sys2Proof

/-! The assembled step function of 43_loop_and_system.md section 4, beside the meanings. -/

namespace Sys2Proof.Safety

open Sys2Proof.Machine

theorem blockTx_eq (p : Params) (v : Bits32) : blockTx p v = .tx (txFrame p v) := rfl

/-- The receive buffer of R149 is the model's, with the model's draws for its draws. -/
theorem blockBuf_eq (data : Payload) (s : State) (i : Fin 8) :
    blockBuf data (drawsOf s data.bytes.length) i.val = (rxBuffer data s.draws).get i := by
  rw [Bytes.get, rxBuffer_getElem data s.draws i.val i.isLt, blockBuf, List.getD_eq_getElem?_getD]
  by_cases hlen : i.val < data.bytes.length
  · simp [hlen]
  · simp [hlen, drawsOf]

/-- The float R149 assembles is the odometry field. -/
theorem blockBuf_field (data : Payload) (s : State) :
    blockBuf data (drawsOf s data.bytes.length) 7 ++ blockBuf data (drawsOf s data.bytes.length) 6 ++
      blockBuf data (drawsOf s data.bytes.length) 5 ++ blockBuf data (drawsOf s data.bytes.length) 4 =
      odomField data s.draws := by
  rw [odomField_eq, ← blockBuf_eq, ← blockBuf_eq, ← blockBuf_eq, ← blockBuf_eq]
  rfl

/-- In RUN, R149 gives an iteration the record and the outputs of a serving. -/
theorem blockStep_iter_run (p : Params) (cmds : List Bits32) (rx : Option Frame) {s : State} (hrun : s.mode = .run) :
    blockStep p (drawsOf s (Event.iter cmds rx).len) (toBlock s) (.iter cmds rx) =
      some (toBlock (served p cmds rx (polledX p rx s) (polledDraws p rx) s),
        cmds.map (fun v => .tx (txFrame p v)) ++
          rx.toList.map (fun _ => .pub { s.msg with x := polledX p rx s })) := by
  cases rx with
  | none => simp [blockStep, toBlock, hrun, polledX, blockTx_eq]
  | some f =>
    by_cases hid : f.id = p.odomId
    · have hfield := blockBuf_field f.data s
      simp only [blockStep, toBlock, hrun, hid, if_true, Event.len, Frame.len, hfield]
      simp [hrun, polledX, hid, blockTx_eq]
    · simp [blockStep, toBlock, hrun, hid, polledX, blockTx_eq]

end Sys2Proof.Safety

namespace Sys2Proof

open Machine Safety

/-- Settles O41, event by event and mode by mode. -/
theorem meaningsAreTheAssembledStepFunction : Obligations.MeaningsAreTheAssembledStepFunction := by
  unfold Obligations.MeaningsAreTheAssembledStepFunction
  intro e s
  cases e with
  | reset => exact ⟨_, rfl, rfl, (List.append_nil _).symm⟩
  | init ok =>
    by_cases hinit : s.mode = .init
    · have hblock : (toBlock s).mode = .init := hinit
      simp only [blockStep, hblock, if_true]
      exact ⟨_, reportStartup_init ok hinit, rfl, (List.append_nil _).symm⟩
    · have hblock : (toBlock s).mode ≠ .init := hinit
      simp only [blockStep, hblock, if_false]
      exact ⟨_, (refusedExactlyOutOfMode (.init ok) s).2.1.mpr ⟨⟨ok, rfl⟩, hinit⟩⟩
  | iter cmds rx =>
    cases hm : s.mode with
    | init =>
      have hblock : (toBlock s).mode = .init := hm
      simp only [blockStep, hblock]
      exact ⟨_, duringLoop_init _ hm⟩
    | run =>
      rw [blockStep_iter_run Config.params cmds rx hm]
      exact ⟨_, exec_loop_served cmds rx hm, rfl, List.append_assoc _ _ _⟩
    | halt =>
      have hblock : (toBlock s).mode = .halt := hm
      simp only [blockStep, hblock]
      exact ⟨_, duringLoop_halt _ hm, rfl, (List.append_nil _).symm⟩

end Sys2Proof

/-! Runs of loop iterations: what they count, and what they cannot tell apart. -/

namespace Sys2Proof.Safety

open Sys2Proof.Machine

/-- The polls that find a frame, counted one iteration at a time. -/
theorem polls_cons (it : Iteration) (its : List Iteration) :
    ((it :: its).filter (fun it => it.2.isSome)).length =
      it.2.toList.length + (its.filter (fun it => it.2.isSome)).length := by
  obtain ⟨cmds, rx⟩ := it
  cases rx with
  | none => simp
  | some f => simp [Nat.add_comm]

/-- A payload of eight bytes has a field (R66). -/
theorem exists_fullField {data : Payload} (h : data.bytes.length = 8) : ∃ w, fullField data = some w := by
  obtain ⟨bytes, hlen⟩ := data
  match bytes, hlen, h with
  | [_, _, _, _, b4, b5, b6, b7], _, _ => exact ⟨b7 ++ b6 ++ b5 ++ b4, rfl⟩

/-- Where the odometry frame polled is a full one, `MSG.x` after the poll does not rest on a draw (R128 ii). -/
theorem polledX_eq_xAfter {p : Params} {it : Iteration} (hfull : FullOdometry p it) (s : State) :
    polledX p it.2 s = xAfter p s.msg.x it := by
  obtain ⟨cmds, rx⟩ := it
  cases rx with
  | none => rfl
  | some f =>
    by_cases hid : f.id = p.odomId
    · obtain ⟨w, hw⟩ := exists_fullField (hfull f rfl hid)
      simp [polledX, xAfter, hid, hw, fullField_eq_some hw]
    · simp [polledX, xAfter, hid]

/-- The float of an odometry frame rests on its length and its bytes from offset 4 on (R128 iii). -/
theorem odomField_congr {d e : Payload} (hlen : d.bytes.length = e.bytes.length)
    (hdrop : d.bytes.drop 4 = e.bytes.drop 4) (n : Nat) : odomField d n = odomField e n := by
  have hmissing : missingBytes d = missingBytes e := by rw [missingBytes, missingBytes, hlen]
  have hread : memRead (rxBuffer d n) 4 4 = memRead (rxBuffer e n) 4 4 := by
    apply Bytes.ext_list
    simp only [memRead, rxBuffer, List.drop_append, hdrop, hlen, hmissing]
  exact congrArg f32dec hread

/-- Poll answers the block must not tell apart leave `MSG.x` alike, cost the same draws and publish as often (R128 iii,
iv). -/
theorem polled_congr {p : Params} {rx rx' : Option Frame} (h : SameReading p rx rx') {s t : State} (hmsg : s.msg = t.msg)
    (hdraws : s.draws = t.draws) :
    polledX p rx s = polledX p rx' t ∧ polledDraws p rx = polledDraws p rx' ∧ rx.toList.length = rx'.toList.length := by
  match rx, rx', h with
  | none, none, _ => exact ⟨congrArg Msg.x hmsg, rfl, rfl⟩
  | some f, some g, .inl ⟨hf, hg, hlen, hdrop⟩ =>
    have hmissing : missingBytes f.data = missingBytes g.data := congrArg (8 - ·) hlen
    simp [polledX, polledDraws, hf, hg, hmissing, odomField_congr hlen hdrop, hdraws]
  | some f, some g, .inr ⟨hf, hg⟩ => simp [polledX, polledDraws, hf, hg, hmsg]

/-- Iterations the block must not tell apart serve states that are alike into states that are alike. -/
theorem served_alike {p : Params} (cmds : List Bits32) {rx rx' : Option Frame} (h : SameReading p rx rx') {s t : State}
    (halike : Alike s t) :
    Alike (served p cmds rx (polledX p rx s) (polledDraws p rx) s)
      (served p cmds rx' (polledX p rx' t) (polledDraws p rx') t) := by
  obtain ⟨hmode, hmsg, hout, hports, hdraws⟩ := halike
  obtain ⟨hx, hn, hlen⟩ := polled_congr h hmsg hdraws
  refine ⟨hmode, by simp [hmsg, hx], ?_, hports, by simp [hdraws, hn]⟩
  simp only [served_out, hout, hmsg, hx, List.map_const', hlen]

/-- LOOP takes states that are alike to states that are alike, in whatever mode they go through. -/
theorem exec_loop_alike {it jt : Iteration} (hcmds : it.1 = jt.1) (hread : SameReading Config.params it.2 jt.2)
    {s t u : State} (halike : Alike s t) (h : exec (loopOf it) s = .next u) :
    ∃ u', exec (loopOf jt) t = .next u' ∧ Alike u u' := by
  have hmode : t.mode = s.mode := halike.1.symm
  obtain ⟨hrun, rfl⟩ | ⟨hhalt, rfl⟩ := duringLoop_next h
  · rw [loopIteration_eq_served, hcmds]
    exact ⟨_, exec_loop_served jt.1 jt.2 (hmode.trans hrun), served_alike jt.1 hread halike⟩
  · exact ⟨t, duringLoop_halt _ (hmode.trans hhalt), halike⟩

end Sys2Proof.Safety

namespace Sys2Proof

open Machine Safety

/-- Settles O42, by induction over the iterations, each of which is one serving. -/
theorem pollingProperties : Obligations.PollingProperties := by
  unfold Obligations.PollingProperties
  intro its
  induction its with
  | nil => exact fun s hrun => ⟨s, rfl, hrun, rfl, rfl, rfl, rfl, fun _ => rfl⟩
  | cons it its ih =>
    intro s hrun
    let u := served Config.params it.1 it.2 (polledX Config.params it.2 s) (polledDraws Config.params it.2) s
    have hexec : exec (loopOf it) s = .next u := exec_loop_served it.1 it.2 hrun
    obtain ⟨t, hrest, hmode, hy, hz, hpubs, htxs, hx⟩ := ih u hrun
    refine ⟨t, (runEvents_cons hexec _).trans hrest, hmode, hy, hz, ?_, ?_, fun hfull => ?_⟩
    · rw [hpubs, served_pubs, polls_cons, Nat.add_assoc]
    · rw [htxs, served_txs, List.map_cons, List.sum_cons, Nat.add_assoc]
    · rw [hx fun jt hjt => hfull jt (List.mem_cons_of_mem it hjt), List.foldl_cons,
        ← polledX_eq_xAfter (hfull it List.mem_cons_self)]
      rfl

/-- Settles O43, by induction over the pairs of iterations. -/
theorem unreadBytesNeverInfluenceTheRun : Obligations.UnreadBytesNeverInfluenceTheRun := by
  unfold Obligations.UnreadBytesNeverInfluenceTheRun
  intro its jts s t s' hpairs
  induction hpairs generalizing s t with
  | nil =>
    intro halike hrun
    cases hrun
    exact ⟨t, rfl, halike⟩
  | cons hpair _ ih =>
    intro halike hrun
    obtain ⟨u, hexec, hrest⟩ := runEvents_cons_next hrun
    obtain ⟨u', hexec', halike'⟩ := exec_loop_alike hpair.1 hpair.2 halike hexec
    obtain ⟨t', hrest', hend⟩ := ih u u' halike' hrest
    exact ⟨t', (runEvents_cons hexec' _).trans hrest', hend⟩

end Sys2Proof
